-- ==== Sys2Proof/Word.lean ====
section
/-! DEFINITION. The word types of the ADXL345-I2C sequencer (00_scope.md R5, R6). -/

namespace Sys2Proof

/-- A byte on the bus, a peer register's contents, a register address (R5 `DATA_W`, `REG_W`). -/
abbrev Byte := BitVec 8

/-- A 7-bit device address (R5 `DEV_W`, R51). -/
abbrev DevAddr := BitVec 7

/-- A 32-bit command word (R5 `CW_W`, R71). -/
abbrev Word := BitVec 32

/-- A 16-bit axis value, read as two's complement by `BitVec.toInt` (R5 `AXIS_W`, R6 `int16`). -/
abbrev Axis := BitVec 16

end Sys2Proof
end

