-- ==== Sys2Proof/Syntax.lean ====
section
/-! DEFINITION. The seven operations and their operands (30_encoding.md R72, R87). -/

namespace Sys2Proof

/-- An operation code, the value of the `op` field and of the register `OPR` (R72, 10_state.md R23).
`none` is code 0: illegal in a command word, "between operations" in `OPR`. -/
inductive Op where
  | none
  | binit
  | wrreg
  | rdregs
  | rdid
  | sinit
  | rdsmp
  | decode
  deriving DecidableEq, Repr

/-- One operation with its operands (R72). The operand widths are those of R87, so every term is an
instruction the encoding admits; WellFormed.lean checks operands written as numbers. -/
inductive Instr where
  /-- Initialise the bus master (40_bus_transport.md R106). -/
  | binit
  /-- Write one byte to one register of a peer (41_register_access.md R121). -/
  | wrreg (dev : DevAddr) (reg val : Byte)
  /-- Read `len` bytes starting at one register of a peer (R122). -/
  | rdregs (dev : DevAddr) (reg len : Byte)
  /-- Read the identity byte (42_sensor_driver.md R144). -/
  | rdid
  /-- Put the sensor into measurement mode (R141). -/
  | sinit
  /-- Read and decode one sample (R146). -/
  | rdsmp
  /-- Decode the six bytes in the receive buffer (R147). -/
  | decode
  deriving DecidableEq, Repr

/-- The operation code of an instruction (R72). -/
def Instr.op : Instr → Op
  | .binit => .binit
  | .wrreg _ _ _ => .wrreg
  | .rdregs _ _ _ => .rdregs
  | .rdid => .rdid
  | .sinit => .sinit
  | .rdsmp => .rdsmp
  | .decode => .decode

end Sys2Proof
end

