-- ==== Sys2Proof/WellFormed.lean ====
section
/-! DEFINITION. The assembly notation of 30_encoding.md R85, whose operands are numbers, and the check that each
operand is in its range. `Instr` carries its operands at their widths, so it needs no check of its own. -/

namespace Sys2Proof

/-- One line of the assembly notation (R85), operands as the numbers written. -/
inductive Asm where
  | binit
  | wrreg (dev reg val : Nat)
  | rdregs (dev reg len : Nat)
  | rdid
  | sinit
  | rdsmp
  | decode
  deriving DecidableEq, Repr

/-- R85: `dev 0..0x7F`. -/
def devInRange (n : Nat) : Bool := n ≤ 0x7F

/-- R85: `reg 0..0xFF`, `val 0..0xFF`, `len 0..255`. -/
def byteInRange (n : Nat) : Bool := n ≤ 0xFF

/-- Every operand of the line is in the range R85 gives it. -/
def Asm.wellFormed : Asm → Bool
  | .wrreg dev reg val => devInRange dev && byteInRange reg && byteInRange val
  | .rdregs dev reg len => devInRange dev && byteInRange reg && byteInRange len
  | .binit => true
  | .rdid => true
  | .sinit => true
  | .rdsmp => true
  | .decode => true

/-- The instruction a line stands for (R85, one to one), or nothing when an operand is out of range. -/
def Asm.assemble (a : Asm) : Option Instr :=
  if a.wellFormed then
    some (match a with
      | .binit => .binit
      | .wrreg dev reg val => .wrreg (BitVec.ofNat 7 dev) (BitVec.ofNat 8 reg) (BitVec.ofNat 8 val)
      | .rdregs dev reg len => .rdregs (BitVec.ofNat 7 dev) (BitVec.ofNat 8 reg) (BitVec.ofNat 8 len)
      | .rdid => .rdid
      | .sinit => .sinit
      | .rdsmp => .rdsmp
      | .decode => .decode)
  else none

/-- The line an instruction is written as (R85). -/
def Instr.toAsm : Instr → Asm
  | .binit => .binit
  | .wrreg dev reg val => .wrreg dev.toNat reg.toNat val.toNat
  | .rdregs dev reg len => .rdregs dev.toNat reg.toNat len.toNat
  | .rdid => .rdid
  | .sinit => .sinit
  | .rdsmp => .rdsmp
  | .decode => .decode

end Sys2Proof
end

