-- ==== Sys2Proof/Decode.lean ====
section
/-! DEFINITION. The command word: its fields, the match and mask table, the decoder and the encoder
(30_encoding.md R71 to R74, R88). -/

namespace Sys2Proof

/-! ## Operation codes (R72) -/

/-- The 3-bit code of an operation (R72). -/
def Op.code : Op → BitVec 3
  | .none => 0
  | .binit => 1
  | .wrreg => 2
  | .rdregs => 3
  | .rdid => 4
  | .sinit => 5
  | .rdsmp => 6
  | .decode => 7

/-- The operation of a 3-bit code (R72). -/
def Op.ofCode (c : BitVec 3) : Op :=
  if c = 1 then .binit
  else if c = 2 then .wrreg
  else if c = 3 then .rdregs
  else if c = 4 then .rdid
  else if c = 5 then .sinit
  else if c = 6 then .rdsmp
  else if c = 7 then .decode
  else .none

/-! ## Fields of a command word (R71) -/

/-- `zero5`, bits [31:27]. -/
def zero5Field (w : Word) : BitVec 5 := w.extractLsb' 27 5

/-- `op`, bits [26:24]. -/
def opField (w : Word) : BitVec 3 := w.extractLsb' 24 3

/-- `zero1`, bit [23]. -/
def zero1Field (w : Word) : BitVec 1 := w.extractLsb' 23 1

/-- `dev`, bits [22:16]. -/
def devField (w : Word) : DevAddr := w.extractLsb' 16 7

/-- `reg`, bits [15:8]. -/
def regField (w : Word) : Byte := w.extractLsb' 8 8

/-- `imm`, bits [7:0]: the value of WRREG, the length of RDREGS. -/
def immField (w : Word) : Byte := w.extractLsb' 0 8

/-! ## The match and mask table (R73) -/

/-- One row of the table of R73: a word selects the row when `w & mask = match`. -/
structure OpcodeRow where
  op : Op
  value : Word
  mask : Word
  deriving DecidableEq, Repr

/-- The table of R73. -/
def opcodeTable : List OpcodeRow :=
  [ ⟨.binit, 0x01000000#32, 0xFFFFFFFF#32⟩,
    ⟨.wrreg, 0x02000000#32, 0xFF800000#32⟩,
    ⟨.rdregs, 0x03000000#32, 0xFF800000#32⟩,
    ⟨.rdid, 0x04000000#32, 0xFFFFFFFF#32⟩,
    ⟨.sinit, 0x05000000#32, 0xFFFFFFFF#32⟩,
    ⟨.rdsmp, 0x06000000#32, 0xFFFFFFFF#32⟩,
    ⟨.decode, 0x07000000#32, 0xFFFFFFFF#32⟩ ]

/-- The word selects the row (R73). -/
def OpcodeRow.selects (r : OpcodeRow) (w : Word) : Bool := w &&& r.mask == r.value

/-- A command word is legal when it matches a row of R73 (R74). -/
def legalWord (w : Word) : Bool := opcodeTable.any fun r => r.selects w

/-! ## The decoder -/

/-- Why a command word is illegal (R74). -/
inductive DecodeError where
  /-- Any of bits [31:27] or bit [23] is nonzero. -/
  | reservedBits
  /-- The `op` field is 0. -/
  | opZero
  /-- BINIT, RDID, SINIT, RDSMP or DECODE with a nonzero `dev`, `reg` or `imm`. -/
  | operandNotZero
  deriving DecidableEq, Repr

/-- An operation with no operands: its three operand fields must be zero (R73). -/
def withoutOperands (w : Word) (i : Instr) : Except DecodeError Instr :=
  if devField w = 0 ∧ regField w = 0 ∧ immField w = 0 then .ok i else .error .operandNotZero

/-- The instruction of a command word, or the reason it is illegal (R72 to R74). -/
def decode (w : Word) : Except DecodeError Instr :=
  if zero5Field w = 0 ∧ zero1Field w = 0 then
    match Op.ofCode (opField w) with
    | .none => .error .opZero
    | .binit => withoutOperands w .binit
    | .wrreg => .ok (.wrreg (devField w) (regField w) (immField w))
    | .rdregs => .ok (.rdregs (devField w) (regField w) (immField w))
    | .rdid => withoutOperands w .rdid
    | .sinit => withoutOperands w .sinit
    | .rdsmp => withoutOperands w .rdsmp
    | .decode => withoutOperands w .decode
  else .error .reservedBits

/-! ## The encoder -/

/-- The command word of R71 with the given fields. -/
def packWord (op : Op) (dev : DevAddr) (reg imm : Byte) : Word :=
  0#5 ++ op.code ++ 0#1 ++ dev ++ reg ++ imm

/-- The command word of an instruction (R71 to R73). -/
def encode : Instr → Word
  | .binit => packWord .binit 0 0 0
  | .wrreg dev reg val => packWord .wrreg dev reg val
  | .rdregs dev reg len => packWord .rdregs dev reg len
  | .rdid => packWord .rdid 0 0 0
  | .sinit => packWord .sinit 0 0 0
  | .rdsmp => packWord .rdsmp 0 0 0
  | .decode => packWord .decode 0 0 0

/-! ## The opcode table's own numbering -/

/-- The command word whose table bits are `w`; the bits above `nbits` are 0 (R88: one length, 32 bits). -/
def tableWord (nbits w : Nat) : Word := BitVec.ofNat 32 (w % 2 ^ nbits)

/-- The instruction the decoder reads from a row of spec/opcode_table.json. A value that does not fit the
32 bits of a command word is none. -/
def decodeTableWord (nbits w : Nat) : Option Instr :=
  if w % 2 ^ nbits < 2 ^ 32 then (decode (tableWord nbits w)).toOption else none

end Sys2Proof
end

