-- ==== Sys2Proof/Config.lean ====
section
/-! DEFINITION. The parameters of the block (00_scope.md R5), the free values `undefined(N)` (R6) and the
answers of the environment (10_state.md R36), the last three as constants with no body. -/

namespace Sys2Proof

/-- The answer of one `T.Init` (40_bus_transport.md R101). -/
inductive InitResult where
  | ok
  | busUnavailable
  | config
  deriving DecidableEq, Repr, Inhabited

/-- The answer of one `T.Send` or `T.Receive`, and the values `XRES` takes (R102, R103, R32). -/
inductive XferResult where
  | ok
  | transferError
  deriving DecidableEq, Repr, Inhabited

namespace Config

/-! ## Constants the spec fixes (R5, R34) -/

/-- `BUS_HZ`, the argument of every `T.Init` (R5, R101). -/
def busHz : Nat := 100000

/-- `ID_EXPECTED` (R5, R79). -/
def idExpected : Byte := 0xE5#8

/-- `PWR_STANDBY` (R5, R79). -/
def pwrStandby : Byte := 0x00#8

/-- `PWR_MEASURE`: bit 3 is the measurement-enable flag (R5, R79). -/
def pwrMeasure : Byte := 0x08#8

/-- `FMT_VALUE` (R5, R79). -/
def fmtValue : Byte := 0x01#8

/-- `SAMPLE_LEN`, the length of the data block (R5, R78). -/
def sampleLen : Byte := 6#8

/-- `T_SETTLE_MS` (R5, R107). -/
def settleMs : Nat := 10

/-- `T_SAMPLE_MS` (R5, R107). -/
def sampleMs : Nat := 500

/-! ## The five OPEN parameters (R5, 92_eei_decisions.md D21): no rule depends on their values -/

/-- `DEV_ADDR`, the one peer's device address (R5, R51). Log entry 1. -/
opaque devAddr : DevAddr

/-- `REG_DEVID`, the device-identity register (R5, R52). Log entry 1. -/
opaque regDevid : Byte

/-- `REG_POWER_CTL`, the power-control register (R5, R52). Log entry 1. -/
opaque regPowerCtl : Byte

/-- `REG_DATA_FORMAT`, the data-format register (R5, R52). Log entry 1. -/
opaque regDataFormat : Byte

/-- `REG_DATAX0`, the data-start register (R5, R52). Log entry 1. -/
opaque regDatax0 : Byte

/-! ## Free values -/

/-- `undefined(N)` (R6): the `idx`-th N-bit value of draw number `draw`. Nothing constrains it.
Log entry 2. -/
opaque undefined (n draw idx : Nat) : BitVec n

/-- What `T.Init` answers at draw `draw` when the state scripts no answer (R36, R101). Log entry 3. -/
opaque initAnswer (draw : Nat) : InitResult

/-- What `T.Send` answers at draw `draw` when the state scripts no answer (R36, R102). Log entry 3. -/
opaque sendAnswer (draw : Nat) : XferResult

/-- What `T.Receive` answers at draw `draw` when the state scripts no answer (R36, R103). Log entry 3. -/
opaque recvAnswer (draw : Nat) : XferResult

/-- Byte `idx` that `T.Receive` delivers at draw `draw` when the state scripts none (R36, R103).
Log entry 3. -/
opaque recvByte (draw idx : Nat) : Byte

/-- Whether the transport responds to the request outstanding at draw `draw` when the state scripts nothing
(R109 `TransportResponds`). Log entry 4. -/
opaque transportResponds (draw : Nat) : Bool

/-- Whether the delay outstanding at draw `draw` is over when the state scripts nothing (R109 `DelayCompletes`).
Log entry 4. -/
opaque delayCompletes (draw : Nat) : Bool

/-- Whether the sink accepts the report outstanding at draw `draw` when the state scripts nothing (R109
`SinkAccepts`). Log entry 4. -/
opaque sinkAccepts (draw : Nat) : Bool

/-- What `T.IsBusy` answers at draw `draw` when the state scripts no answer (R36, R104). Log entry 3. -/
opaque busyAnswer (draw : Nat) : Bool

end Config

end Sys2Proof
end

