-- ==== Sys2Proof/Machine/State.lean ====
section
/-! DEFINITION. The state of the block (10_state.md), the events of its trace, and the reasons a step can stop. -/

namespace Sys2Proof.Machine

/-- The states of the Loop Controller, the values of `LCS` (10_state.md R21). -/
inductive LcState where
  | uninitialized
  | busReady
  | identityChecked
  | measurementActive
  | sampling
  | halted
  deriving DecidableEq, Repr

/-- The phases of a register access, the values of `PH` (10_state.md R23). -/
inductive Phase where
  | idle
  | wSend
  | wPoll
  | aSend
  | aPoll
  | bRecv
  | bPoll
  | sDelay
  deriving DecidableEq, Repr

/-- The status codes, the values of `STATUS` (60_exceptions.md R200). -/
inductive Status where
  | ok
  | busUnavailable
  | config
  | transfer
  | notReady
  | illegal
  deriving DecidableEq, Repr

/-- A report event handed to the sink, with its payload (30_encoding.md R81). -/
inductive Report where
  | initStart
  | initFail (c : Status)
  | ident (id : Byte)
  | idMismatch
  | idReadFail (c : Status)
  | initWriteFail (m : BitVec 3)
  | initDone
  | sample (x y z : Axis)
  | sampleFail (c : Status)
  deriving DecidableEq, Repr

/-- An interface event of the trace, request and response together (00_scope.md R8, 30_encoding.md R80 to R82). -/
inductive Event where
  /-- `TInit(hz)=r` (40_bus_transport.md R101). -/
  | tInit (hz : Nat) (r : InitResult)
  /-- `TSend(dev,[bytes],nostop)=r` (R102). -/
  | tSend (dev : DevAddr) (bytes : List Byte) (nostop : Bool) (r : XferResult)
  /-- `TRecv(dev,n)=r,[data]`; no data when `r` is an error (R103). -/
  | tRecv (dev : DevAddr) (n : Nat) (r : XferResult) (data : List Byte)
  /-- `TBusy=b` (R104). -/
  | tBusy (b : Bool)
  /-- `Delay(ms)` (R107). -/
  | delay (ms : Nat)
  /-- `Emit(ev)` (R108). -/
  | emit (r : Report)
  deriving DecidableEq, Repr

/-- A scripted answer to one `T.Receive` (R103). -/
inductive RecvAnswer where
  | ok (bytes : List Byte)
  | failed
  deriving DecidableEq, Repr

/-- Who issues command words (43_sampling_loop.md R180, 92_eei_decisions.md D4; log entry 6). -/
inductive Issuer where
  /-- The assembled block: the Loop Controller is the only issuer. -/
  | loopController
  /-- The operations alone: words are taken from the command port and the Loop Controller does not step. -/
  | commandPort
  deriving DecidableEq, Repr

/-- All state of the block (R20), and after it the model's own fields. -/
structure State where
  /-- `LCS` (R21). -/
  lcs : LcState
  /-- `LCP`, the index of the next step of the current Loop Controller state (R21; log entry 8). -/
  lcp : Fin 8
  /-- `BUS_READY` (R22). -/
  busReady : Bool
  /-- `OPR` (R23). -/
  opr : Op
  /-- `PH` (R23). -/
  ph : Phase
  /-- `STATUS` (R24). -/
  status : Status
  /-- `INITERR` (R25). -/
  initErr : BitVec 3
  /-- `ISTEP` (R26). -/
  istep : Fin 3
  /-- `XRES` (R32). -/
  xres : XferResult
  /-- `DEV` (R27). -/
  dev : DevAddr
  /-- `REG` (R27). -/
  reg : Byte
  /-- `VAL` (R27). -/
  val : Byte
  /-- `LEN` (R27). -/
  len : Byte
  /-- `TXBUF[0..1]` (R28). -/
  txbuf : Vector Byte 2
  /-- `RXBUF[0..254]` (R29). -/
  rxbuf : Vector Byte 255
  /-- `IDENT` (R30). -/
  ident : Byte
  /-- `AX` (R31). -/
  ax : Axis
  /-- `AY` (R31). -/
  ay : Axis
  /-- `AZ` (R31). -/
  az : Axis
  /-- The model's own: the `Emit(EV_ID_MISMATCH)` of R172 step 2 is due (log entry 9). -/
  mismatchDue : Bool
  /-- The model's own: the trace of the run, newest event first (R8; log entry 5). -/
  trace : List Event
  /-- The model's own: the answers of `T.Init` still to come (log entry 3). -/
  initAnswers : List InitResult
  /-- The model's own: the answers of `T.Send` still to come (log entry 3). -/
  sendAnswers : List XferResult
  /-- The model's own: the answers of `T.Receive` still to come (log entry 3). -/
  recvAnswers : List RecvAnswer
  /-- The model's own: the answers of `T.IsBusy` still to come (log entry 3). -/
  busyAnswers : List Bool
  /-- The model's own: whether the transport responds to the request outstanding, one entry for each step in which
  one is (R109 `TransportResponds`; log entry 4). -/
  transportResponds : List Bool
  /-- The model's own: whether the delay outstanding is over, one entry for each step in which one is (R109
  `DelayCompletes`; log entry 4). -/
  delayCompletes : List Bool
  /-- The model's own: whether the sink accepts the report outstanding, one entry for each step in which one is (R109
  `SinkAccepts`; log entry 4). -/
  sinkAccepts : List Bool
  /-- The model's own: the number of free draws taken (log entry 2). -/
  draws : Nat
  /-- The model's own: who issues command words (log entry 6). -/
  issuer : Issuer
  /-- The model's own: the words waiting at the command port (log entry 6). -/
  cmds : List Word
  /-- The model's own: the samples of the reset input `rst` still to come; none left is low (log entry 7). -/
  rst : List Bool
  deriving DecidableEq, Repr

/-- Why the machine stops. -/
inductive Fault where
  /-- Raised by an operation in progress in a phase that is not one of its own, and by the Loop Controller at a
  step its state does not have: `OPR`, `PH`, `LCS`, `LCP` hold values together that no rule ever writes (R21,
  R23). Safe: the machine stops where the spec gives no step, and Safety.lean's invariant rules it out. -/
  | noRule
  deriving DecidableEq, Repr

/-- Why an instruction has no meaning. -/
inductive Refusal where
  /-- Raised by a dispatch arm of an instruction with no meaning yet; no arm does. Safe: the machine stops. -/
  | notModelled (mnemonic : String)
  deriving DecidableEq, Repr

/-- The block right after a reset that takes free draw number `k` (10_state.md R37): the control registers 0,
every data register `undefined(N)` (log entry 19), and the model's own fields empty. -/
def State.resetAt (k : Nat) : State where
  lcs := .uninitialized
  lcp := 0
  busReady := false
  opr := .none
  ph := .idle
  status := .ok
  initErr := 0#3
  istep := 0
  xres := .ok
  dev := Config.undefined 7 k 0
  reg := Config.undefined 8 k 0
  val := Config.undefined 8 k 1
  len := Config.undefined 8 k 2
  txbuf := Vector.ofFn fun i => Config.undefined 8 k (3 + i.val)
  rxbuf := Vector.ofFn fun i => Config.undefined 8 k (5 + i.val)
  ident := Config.undefined 8 k 260
  ax := Config.undefined 16 k 0
  ay := Config.undefined 16 k 1
  az := Config.undefined 16 k 2
  mismatchDue := false
  trace := []
  initAnswers := []
  sendAnswers := []
  recvAnswers := []
  busyAnswers := []
  transportResponds := []
  delayCompletes := []
  sinkAccepts := []
  draws := k + 1
  issuer := .loopController
  cmds := []
  rst := []

/-- The machine right after reset (R37, 70_reset_and_hazards.md R230, R231). -/
def State.reset : State := State.resetAt 0

end Sys2Proof.Machine
end

