-- ==== Sys2Proof/Machine/Messages.lean ====
section
/-! DEFINITION. The numbers the spec gives to registers' values and to interface messages: status and state codes,
message kinds, report codes and payloads (10_state.md R21, R23, 30_encoding.md R80, R81, 60_exceptions.md R200). -/

namespace Sys2Proof.Machine

/-- The value of `LCS` (R21). -/
def LcState.code : LcState → BitVec 3
  | .uninitialized => 0
  | .busReady => 1
  | .identityChecked => 2
  | .measurementActive => 3
  | .sampling => 4
  | .halted => 5

/-- The value of `PH` (R23). -/
def Phase.code : Phase → BitVec 3
  | .idle => 0
  | .wSend => 1
  | .wPoll => 2
  | .aSend => 3
  | .aPoll => 4
  | .bRecv => 5
  | .bPoll => 6
  | .sDelay => 7

/-- The value of `STATUS` (R200). -/
def Status.code : Status → BitVec 3
  | .ok => 0
  | .busUnavailable => 1
  | .config => 2
  | .transfer => 3
  | .notReady => 4
  | .illegal => 5

/-- The status of a `T.Init` answer (R80, R101). -/
def initStatus : InitResult → Status
  | .ok => .ok
  | .busUnavailable => .busUnavailable
  | .config => .config

/-- The status of a transfer's answer (R80, R102, R103). -/
def xferStatus : XferResult → Status
  | .ok => .ok
  | .transferError => .transfer

/-- The kind number of a transport message; nothing for an event of another interface (R80). -/
def Event.kind : Event → Option (BitVec 2)
  | .tInit _ _ => some 0
  | .tSend _ _ _ _ => some 1
  | .tRecv _ _ _ _ => some 2
  | .tBusy _ => some 3
  | .delay _ => none
  | .emit _ => none

/-- The code of a report event (R81). -/
def Report.code : Report → BitVec 4
  | .initStart => 1
  | .initFail _ => 2
  | .ident _ => 3
  | .idMismatch => 4
  | .idReadFail _ => 5
  | .initWriteFail _ => 6
  | .initDone => 7
  | .sample _ _ _ => 8
  | .sampleFail _ => 9

/-- The payload of a report event in the packing R81 suggests: `x` in [47:32], `y` in [31:16], `z` in [15:0],
one-field payloads in the low bits (log entry 18). -/
def Report.payload : Report → BitVec 48
  | .initStart => 0
  | .initFail c => c.code.zeroExtend 48
  | .ident id => id.zeroExtend 48
  | .idMismatch => 0
  | .idReadFail c => c.code.zeroExtend 48
  | .initWriteFail m => m.zeroExtend 48
  | .initDone => 0
  | .sample x y z => x ++ y ++ z
  | .sampleFail c => c.code.zeroExtend 48

end Sys2Proof.Machine
end

