-- ==== Sys2Proof/Machine/Ops.lean ====
section
/-! DEFINITION. The shared operations: the environment's answers, the interface primitives (00_scope.md R7), the
buffers, admission and refusal (41_register_access.md R120), `return` (60_exceptions.md R202) and reset (70 R230). -/

namespace Sys2Proof.Machine

/-! ## The answers of the environment (R36; log entry 3) -/

/-- The answer of the next `T.Init` (R101). -/
def State.initAnswer (s : State) : InitResult :=
  match s.initAnswers with
  | r :: _ => r
  | [] => Config.initAnswer s.draws

/-- The answer of the next `T.Send` (R102). -/
def State.sendAnswer (s : State) : XferResult :=
  match s.sendAnswers with
  | r :: _ => r
  | [] => Config.sendAnswer s.draws

/-- The result of the next `T.Receive` (R103). -/
def State.recvAnswer (s : State) : XferResult :=
  match s.recvAnswers with
  | .ok _ :: _ => .ok
  | .failed :: _ => .transferError
  | [] => Config.recvAnswer s.draws

/-- Byte `i` the next `T.Receive` delivers when it succeeds (R103). A script that lists fewer bytes than
are asked for leaves the others free (log entry 15). -/
def State.recvByte (s : State) (i : Nat) : Byte :=
  match s.recvAnswers with
  | .ok bytes :: _ => bytes.getD i (Config.recvByte s.draws i)
  | .failed :: _ => Config.recvByte s.draws i
  | [] => Config.recvByte s.draws i

/-- The `n` bytes the next `T.Receive` delivers when it succeeds: exactly `n` (R103). -/
def State.recvData (s : State) (n : Nat) : List Byte := (List.range n).map s.recvByte

/-- The answer of the next `T.IsBusy` (R104). -/
def State.busyAnswer (s : State) : Bool :=
  match s.busyAnswers with
  | b :: _ => b
  | [] => Config.busyAnswer s.draws

/-! ## The interface primitives (R7): each is one event of the trace (R8) -/

/-- An event happens: it is the newest of the trace. -/
def State.log (s : State) (e : Event) : State := { s with trace := e :: s.trace }

/-- `T.Init(hz)`; its answer is `s.initAnswer` (R101). -/
def State.tInit (s : State) (hz : Nat) : State :=
  { s with
    trace := .tInit hz s.initAnswer :: s.trace
    initAnswers := s.initAnswers.tail
    draws := s.draws + 1 }

/-- `XRES <- T.Send(bytes, dev, nostop)`; the answer is `s.sendAnswer` (R102, R32). -/
def State.tSend (s : State) (bytes : List Byte) (dev : DevAddr) (nostop : Bool) : State :=
  { s with
    trace := .tSend dev bytes nostop s.sendAnswer :: s.trace
    sendAnswers := s.sendAnswers.tail
    xres := s.sendAnswer
    draws := s.draws + 1 }

/-- `(XRES, data) <- T.Receive(n, dev)`; the answer is `s.recvAnswer` and, when it is OK, `s.recvData n`
(R103, R32). -/
def State.tReceive (s : State) (n : Nat) (dev : DevAddr) : State :=
  { s with
    trace := .tRecv dev n s.recvAnswer (if s.recvAnswer = .ok then s.recvData n else []) :: s.trace
    recvAnswers := s.recvAnswers.tail
    xres := s.recvAnswer
    draws := s.draws + 1 }

/-- `T.IsBusy()`, one poll; its answer is `s.busyAnswer` (R104). -/
def State.tIsBusy (s : State) : State :=
  { s with
    trace := .tBusy s.busyAnswer :: s.trace
    busyAnswers := s.busyAnswers.tail
    draws := s.draws + 1 }

/-- `Delay(ms)` (R107). -/
def State.wait (s : State) (ms : Nat) : State := s.log (.delay ms)

/-- `Emit(ev)` (R108). -/
def State.emit (s : State) (r : Report) : State := s.log (.emit r)

/-! ## Waiting for a response (40_bus_transport.md R109, 92_eei_decisions.md D23; log entry 4)

A step of R8 is a request and its response together. The primitives above and everything that calls them say what
the block does WHEN the environment responds; here is what becomes of a step when it does not. -/

/-- The transport responds to the request outstanding now (R109 `TransportResponds`). -/
def State.transportReady (s : State) : Bool :=
  match s.transportResponds with
  | b :: _ => b
  | [] => Config.transportResponds s.draws

/-- The delay outstanding is over now (R109 `DelayCompletes`). -/
def State.delayReady (s : State) : Bool :=
  match s.delayCompletes with
  | b :: _ => b
  | [] => Config.delayCompletes s.draws

/-- The sink accepts the report outstanding now (R109 `SinkAccepts`). -/
def State.sinkReady (s : State) : Bool :=
  match s.sinkAccepts with
  | b :: _ => b
  | [] => Config.sinkAccepts s.draws

/-- The environment responds now to the request of the event (R109). -/
def State.responds (s : State) (e : Event) : Bool :=
  match e with
  | .tInit _ _ => s.transportReady
  | .tSend _ _ _ _ => s.transportReady
  | .tRecv _ _ _ _ => s.transportReady
  | .tBusy _ => s.transportReady
  | .delay _ => s.delayReady
  | .emit _ => s.sinkReady

/-- One asking of the transport is used up. -/
def State.askedTransport (s : State) : State :=
  { s with transportResponds := s.transportResponds.tail, draws := s.draws + 1 }

/-- One asking of the delay primitive is used up. -/
def State.askedDelay (s : State) : State :=
  { s with delayCompletes := s.delayCompletes.tail, draws := s.draws + 1 }

/-- One asking of the sink is used up. -/
def State.askedSink (s : State) : State :=
  { s with sinkAccepts := s.sinkAccepts.tail, draws := s.draws + 1 }

/-- One asking of the collaborator that the event's request goes to is used up. -/
def State.asked (s : State) (e : Event) : State :=
  match e with
  | .tInit _ _ => s.askedTransport
  | .tSend _ _ _ _ => s.askedTransport
  | .tRecv _ _ _ _ => s.askedTransport
  | .tBusy _ => s.askedTransport
  | .delay _ => s.askedDelay
  | .emit _ => s.askedSink

/-- The event of a step from `s` to `t`, when it has one: the trace is longer by it (R8). -/
def newEvent (s t : State) : Option Event :=
  if t.trace.length = s.trace.length then none else t.trace.head?

/-- The block in `s` is about to take the step to `t`. A step with no event is taken. A step with an event is taken
when the environment responds to its request; until then the block is stuck at that request: the step has not
happened, and the next one asks again (R109). -/
def awaitResponse (s t : State) : State :=
  match newEvent s t with
  | none => t
  | some e => if s.responds e then t.asked e else s.asked e

/-- What becomes of the outcome `o` of the block's next step from `s`: a next state waits for the response (R109). -/
def onceAnswered (s : State) (o : Host.Outcome State Fault Refusal) : Host.Outcome State Fault Refusal :=
  match o with
  | .next t => .next (awaitResponse s t)
  | .fault r => .fault r
  | .refused r => .refused r

/-! ## The buffers (10_state.md R28, R29) -/

/-- `TXBUF[0] <- b` (R28). -/
def State.setTx0 (s : State) (b : Byte) : State := { s with txbuf := s.txbuf.set 0 b }

/-- `TXBUF[1] <- b` (R28). -/
def State.setTx1 (s : State) (b : Byte) : State := { s with txbuf := s.txbuf.set 1 b }

/-- A receive buffer with `f i` at every index `i < n` and the bytes of `v` at index `n` and above (R29). -/
def fillBytes (v : Vector Byte 255) (n : Nat) (f : Nat → Byte) : Vector Byte 255 :=
  match n with
  | 0 => v
  | k + 1 => (fillBytes v k f).setIfInBounds k (f k)

/-- `RXBUF[i] <- f i` for `i < n`; the bytes at index `n` and above keep their value (R29). -/
def State.fillRx (s : State) (n : Nat) (f : Nat → Byte) : State := { s with rxbuf := fillBytes s.rxbuf n f }

/-- `RXBUF[i] <- undefined(8)` for `i < n`, one free draw (R29, R125). -/
def State.undefineRx (s : State) (n : Nat) : State :=
  { s with rxbuf := fillBytes s.rxbuf n (Config.undefined 8 s.draws), draws := s.draws + 1 }

/-- `IDENT <- undefined(8)`, one free draw (R30, R144). -/
def State.undefineIdent (s : State) : State :=
  { s with ident := Config.undefined 8 s.draws 0, draws := s.draws + 1 }

/-- `AX, AY, AZ <- undefined(16)`, one free draw of three values (R31, R149). -/
def State.undefineAxes (s : State) : State :=
  { s with
    ax := Config.undefined 16 s.draws 0
    ay := Config.undefined 16 s.draws 1
    az := Config.undefined 16 s.draws 2
    draws := s.draws + 1 }

/-! ## Beginning and ending an operation -/

/-- `return c`: how every operation ends, with OK or with an error. This hardware takes no exception: an error
is delivered by this one step (60_exceptions.md R202). -/
def State.ret (s : State) (c : Status) : State := { s with status := c, opr := .none, ph := .idle }

/-- A refusal: no event, and no register but `STATUS` changes (R74, R120, R205). -/
def State.refuse (s : State) (c : Status) : State := { s with status := c }

/-- An admitted operation sets `OPR` and its first phase (R120, R23). -/
def State.enterOp (s : State) (op : Op) (ph : Phase) : State := { s with opr := op, ph := ph }

/-- The operation in progress goes to its next phase (R23). -/
def State.toPhase (s : State) (ph : Phase) : State := { s with ph := ph }

/-- Admission test (2) of R120: an operation that uses the bus needs `BUS_READY`, else `E_NOT_READY`. -/
def admitBus (start : State → State) (s : State) : State :=
  if s.busReady then start s else s.refuse .notReady

/-- One operation runs at a time (R120, R242). The word of operation `op` begins it when no operation is in
progress; in progress, `op` takes its next step; while another operation is in progress the word is not taken and
nothing changes (log entry 13). -/
def whenFree (op : Op) (start : State → State) (resume : State → Host.Outcome State Fault Refusal) (s : State) :
    Host.Outcome State Fault Refusal :=
  if s.opr = .none then .next (start s) else if s.opr = op then resume s else .next s

/-! ## Reset (70_reset_and_hazards.md R230, R232) -/

/-- The reset input is sampled high: the block forgets the operation in progress, every register takes its reset
value, a new run with an empty trace begins, and nothing is requested. What the environment holds is left as it is
(log entry 7). -/
def State.resetBlock (s : State) : State :=
  { State.resetAt s.draws with
    initAnswers := s.initAnswers
    sendAnswers := s.sendAnswers
    recvAnswers := s.recvAnswers
    busyAnswers := s.busyAnswers
    transportResponds := s.transportResponds
    delayCompletes := s.delayCompletes
    sinkAccepts := s.sinkAccepts
    issuer := s.issuer
    cmds := s.cmds
    rst := s.rst }

/-- The next sample of the reset input (log entry 7). -/
def State.rstSample (s : State) : Bool :=
  match s.rst with
  | b :: _ => b
  | [] => false

/-- The sample of the reset input is used up. -/
def State.sampled (s : State) : State := { s with rst := s.rst.tail }

end Sys2Proof.Machine
end

