-- ==== Sys2Proof/Machine/Flags.lean ====
section
/-! DEFINITION. The block has no arithmetic flags (10_state.md R33). The bits that record outcomes are those of
`INITERR` (R25), computed here. -/

namespace Sys2Proof.Machine

/-- `v` with bit `i` set to `b`. -/
def withBit (v : BitVec 3) (i : Fin 3) (b : Bool) : BitVec 3 :=
  if b then v ||| (1#3 <<< i.val) else v &&& ~~~(1#3 <<< i.val)

/-- `INITERR[ISTEP] <- (XRES != OK)` (42_sensor_driver.md R141, R142). -/
def State.recordInitErr (s : State) : State :=
  { s with initErr := withBit s.initErr s.istep (s.xres != .ok) }

/-- `INITERR <- 0b000` (R141). -/
def State.clearInitErr (s : State) : State := { s with initErr := 0#3 }

/-- The status SINIT returns: OK when no write failed, else `E_TRANSFER` (R141, R142). -/
def sinitStatus (initErr : BitVec 3) : Status := if initErr = 0#3 then .ok else .transfer

end Sys2Proof.Machine
end

