-- ==== Sys2Proof/Machine/BusTransport.lean ====
section
/-! DEFINITION. The busy-poll and BINIT (40_bus_transport.md R105, R106). -/

namespace Sys2Proof.Machine

/-- One turn of the busy-poll `WAITIDLE` (R105): one `T.IsBusy`; while it answers true the phase is repeated, and
when it answers false `done` follows. There is no limit on the number of turns (R208). -/
def pollThen (done : State → State) (s : State) : State :=
  if s.busyAnswer then s.tIsBusy else done s.tIsBusy

/-- `T.Init(BUS_HZ)`, `BUS_READY` on OK, and return (R106). -/
def initBus (s : State) : State :=
  let t := s.tInit Config.busHz
  (if s.initAnswer = .ok then { t with busReady := true } else t).ret (initStatus s.initAnswer)

/-- BINIT (R106). It finishes in one step, so it is never in progress between two steps (R23). -/
def execBinit (s : State) : Host.Outcome State Fault Refusal :=
  whenFree .binit (fun s => if s.busReady then s.refuse .illegal else initBus s) (fun _ => .fault .noRule) s

end Sys2Proof.Machine
end

