-- ==== Sys2Proof/Machine/Operands.lean ====
section
/-! DEFINITION. Where operands come from: the command word's fields (30_encoding.md R73, R87) and the constants of
the compound operations (42_sensor_driver.md R140, R141). -/

namespace Sys2Proof.Machine

/-- WRREG loads DEV, REG, VAL and leaves LEN (10_state.md R27). -/
def State.latchWrite (s : State) (dev : DevAddr) (reg val : Byte) : State :=
  { s with dev := dev, reg := reg, val := val }

/-- RDREGS loads DEV, REG, LEN and leaves VAL (R27). -/
def State.latchRead (s : State) (dev : DevAddr) (reg len : Byte) : State :=
  { s with dev := dev, reg := reg, len := len }

/-- The register written by SINIT write number `i` (R141). -/
def sinitReg (i : Fin 3) : Byte :=
  if i = 2 then Config.regDataFormat else Config.regPowerCtl

/-- The value written by SINIT write number `i` (R141). -/
def sinitVal (i : Fin 3) : Byte :=
  if i = 0 then Config.pwrStandby else if i = 1 then Config.pwrMeasure else Config.fmtValue

/-- SINIT begins its write number `i`: `ISTEP` and the operand latches (R141, R140). -/
def State.latchSinit (s : State) (i : Fin 3) : State :=
  { s with istep := i, dev := Config.devAddr, reg := sinitReg i, val := sinitVal i }

end Sys2Proof.Machine
end

