-- ==== Sys2Proof/Machine/RegisterAccess.lean ====
section
/-! DEFINITION. The Register Access Unit: the phases of a register access, WRREG and RDREGS
(41_register_access.md R121 to R127). -/

namespace Sys2Proof.Machine

/-! ## Phases (R121, R122, 10_state.md R23) -/

/-- `PH = W_SEND`: the write frame `[REG, VAL]`, sent with a stop (R121, 30_encoding.md R75). -/
def sendWriteFrame (s : State) : State :=
  (((s.setTx0 s.reg).setTx1 s.val).tSend [s.reg, s.val] s.dev false).toPhase .wPoll

/-- `PH = A_SEND`: the address frame `[REG]`, sent with no stop (R122, R76). -/
def sendAddressFrame (s : State) : State :=
  ((s.setTx0 s.reg).tSend [s.reg] s.dev true).toPhase .aPoll

/-- The end of `PH = A_POLL`: on to the receive, or the short-circuit with the buffer undefined (R122, R124). -/
def addressPhaseDone (finish : State → State) (s : State) : State :=
  if s.xres = .ok then s.toPhase .bRecv else finish (s.undefineRx s.len.toNat)

/-- `PH = B_RECV`: one `T.Receive` of `LEN` bytes into `RXBUF` (R122, R77, R29). -/
def receiveBytes (s : State) : State :=
  let t := s.tReceive s.len.toNat s.dev
  (if s.recvAnswer = .ok then t.fillRx s.len.toNat s.recvByte else t.undefineRx s.len.toNat).toPhase .bPoll

/-- The next step of a read access in progress; `finish` ends the operation it belongs to (R122, R140). -/
def readPhase (finish : State → State) (s : State) : Host.Outcome State Fault Refusal :=
  match s.ph with
  | .aSend => .next (sendAddressFrame s)
  | .aPoll => .next (pollThen (addressPhaseDone finish) s)
  | .bRecv => .next (receiveBytes s)
  | .bPoll => .next (pollThen finish s)
  | .idle => .fault .noRule
  | .wSend => .fault .noRule
  | .wPoll => .fault .noRule
  | .sDelay => .fault .noRule

/-- `return XRES` (R121, R122). -/
def returnXres (s : State) : State := s.ret (xferStatus s.xres)

/-! ## WRREG -/

/-- The next step of a WRREG in progress (R121). -/
def wrregPhase (s : State) : Host.Outcome State Fault Refusal :=
  match s.ph with
  | .wSend => .next (sendWriteFrame s)
  | .wPoll => .next (pollThen returnXres s)
  | .idle => .fault .noRule
  | .aSend => .fault .noRule
  | .aPoll => .fault .noRule
  | .bRecv => .fault .noRule
  | .bPoll => .fault .noRule
  | .sDelay => .fault .noRule

/-- WRREG `dev, reg, val` (R121). -/
def execWrreg (dev : DevAddr) (reg val : Byte) (s : State) : Host.Outcome State Fault Refusal :=
  whenFree .wrreg (admitBus fun s => (s.latchWrite dev reg val).enterOp .wrreg .wSend) wrregPhase s

/-! ## RDREGS -/

/-- An admitted RDREGS: the operands are latched, and a zero length returns OK at once (R122, R123). -/
def beginRdregs (dev : DevAddr) (reg len : Byte) (s : State) : State :=
  if len = 0 then (s.latchRead dev reg len).ret .ok else (s.latchRead dev reg len).enterOp .rdregs .aSend

/-- RDREGS `dev, reg, len` (R122, R123, R124). -/
def execRdregs (dev : DevAddr) (reg len : Byte) (s : State) : Host.Outcome State Fault Refusal :=
  whenFree .rdregs (admitBus (beginRdregs dev reg len)) (readPhase returnXres) s

end Sys2Proof.Machine
end

