-- ==== Sys2Proof/Machine/SampleDecoder.lean ====
section
/-! DEFINITION. The sample decoder and DECODE (42_sensor_driver.md R147, R148). -/

namespace Sys2Proof.Machine

/-- One axis: `(zext_16(high) << 8) | zext_16(low)`, all 16 bits wide (R147). -/
def decodeAxis (low high : Byte) : Axis := (high.zeroExtend 16 <<< 8) ||| low.zeroExtend 16

/-- `(AX, AY, AZ) <- decode(RXBUF[0..5])`, byte pairs (0,1), (2,3), (4,5) (R147, 30_encoding.md R78). -/
def State.latchSample (s : State) : State :=
  { s with
    ax := decodeAxis s.rxbuf[0] s.rxbuf[1]
    ay := decodeAxis s.rxbuf[2] s.rxbuf[3]
    az := decodeAxis s.rxbuf[4] s.rxbuf[5] }

/-- DECODE (R147). It finishes in one step and needs no bus, so it is never in progress between two steps (R23). -/
def execDecode (s : State) : Host.Outcome State Fault Refusal :=
  whenFree .decode (fun s => s.latchSample.ret .ok) (fun _ => .fault .noRule) s

end Sys2Proof.Machine
end

