-- ==== Sys2Proof/Machine/SensorDriver.lean ====
section
/-! DEFINITION. The Sensor Unit: RDID, SINIT and RDSMP (42_sensor_driver.md R140 to R149). -/

namespace Sys2Proof.Machine

/-! ## RDID (R144) -/

/-- The end of RDID: the identity byte, or an undefined one after a failed read (R144, 10_state.md R30). -/
def finishRdid (s : State) : State :=
  returnXres (if s.xres = .ok then { s with ident := s.rxbuf[0] } else s.undefineIdent)

/-- RDID (R144). -/
def execRdid (s : State) : Host.Outcome State Fault Refusal :=
  whenFree .rdid
    (admitBus fun s => (s.latchRead Config.devAddr Config.regDevid 1#8).enterOp .rdid .aSend)
    (readPhase finishRdid) s

/-! ## RDSMP (R146) -/

/-- The end of RDSMP: the decoded sample, or undefined axes after a failed read (R146, R149). -/
def finishRdsmp (s : State) : State :=
  returnXres (if s.xres = .ok then s.latchSample else s.undefineAxes)

/-- RDSMP (R146). -/
def execRdsmp (s : State) : Host.Outcome State Fault Refusal :=
  whenFree .rdsmp
    (admitBus fun s => (s.latchRead Config.devAddr Config.regDatax0 Config.sampleLen).enterOp .rdsmp .aSend)
    (readPhase finishRdsmp) s

/-! ## SINIT (R141, R142, R143) -/

/-- After the settle delay: the next of the three writes, or the return after the third (R141). -/
def afterSettle (s : State) : State :=
  if s.istep = 2 then s.ret (sinitStatus s.initErr) else (s.latchSinit (s.istep + 1)).toPhase .wSend

/-- The next step of a SINIT in progress (R141): a failed write does not stop the sequence (R142). -/
def sinitPhase (s : State) : Host.Outcome State Fault Refusal :=
  match s.ph with
  | .wSend => .next (sendWriteFrame s)
  | .wPoll => .next (pollThen (fun t => t.recordInitErr.toPhase .sDelay) s)
  | .sDelay => .next (afterSettle (s.wait Config.settleMs))
  | .idle => .fault .noRule
  | .aSend => .fault .noRule
  | .aPoll => .fault .noRule
  | .bRecv => .fault .noRule
  | .bPoll => .fault .noRule

/-- SINIT (R141). -/
def execSinit (s : State) : Host.Outcome State Fault Refusal :=
  whenFree .sinit (admitBus fun s => (s.clearInitErr.latchSinit 0).enterOp .sinit .wSend) sinitPhase s

end Sys2Proof.Machine
end

