-- ==== Sys2Proof/Machine/Dispatch.lean ====
section
/-! DEFINITION. One arm per instruction: exec calls its meaning. -/

namespace Sys2Proof.Machine

def exec (i : Instr) (s : State) : Host.Outcome State Fault Refusal :=
  match i with
  | .binit => Sys2Proof.Machine.execBinit s
  | .wrreg dev reg val => Sys2Proof.Machine.execWrreg dev reg val s
  | .rdregs dev reg len => Sys2Proof.Machine.execRdregs dev reg len s
  | .rdid => Sys2Proof.Machine.execRdid s
  | .sinit => Sys2Proof.Machine.execSinit s
  | .rdsmp => Sys2Proof.Machine.execRdsmp s
  | .decode => Sys2Proof.Machine.execDecode s

end Sys2Proof.Machine
end

