-- ==== Sys2Proof/Machine/LoopController.lean ====
section
/-! DEFINITION. The issuers of command words: the command port (41_register_access.md R120) and the Loop Controller
(43_sampling_loop.md R170 to R180), and the next step of the block. -/

namespace Sys2Proof.Machine

/-! ## Command words -/

/-- A command word is issued: a legal one runs its instruction, an illegal one is refused with `E_ILLEGAL`
(30_encoding.md R74, R120). -/
def issueWord (w : Word) (s : State) : Host.Outcome State Fault Refusal :=
  match decode w with
  | .ok i => exec i s
  | .error _ => .next (s.refuse .illegal)

/-- The operation in progress, its operands those latched; nothing when the block is between operations (10_state.md
R23, R27). -/
def State.inProgress (s : State) : Option Instr :=
  match s.opr with
  | .none => none
  | .binit => some .binit
  | .wrreg => some (.wrreg s.dev s.reg s.val)
  | .rdregs => some (.rdregs s.dev s.reg s.len)
  | .rdid => some .rdid
  | .sinit => some .sinit
  | .rdsmp => some .rdsmp
  | .decode => some .decode

/-- The command port between operations: the next word that waits is taken; with none the block stays as it is
(R120, R242; log entries 6 and 14). -/
def portStep (s : State) : Host.Outcome State Fault Refusal :=
  match s.cmds with
  | [] => .next s
  | w :: rest => issueWord w { s with cmds := rest }

/-! ## The Loop Controller -/

/-- The step is done (R170; log entry 8). -/
def State.nextLcp (s : State) : State := { s with lcp := s.lcp + 1 }

/-- The Loop Controller enters a state at its first step (10_state.md R21). -/
def State.enterLcs (s : State) (l : LcState) : State := { s with lcs := l, lcp := 0 }

/-- R171. -/
def lcUninitialized (s : State) : Host.Outcome State Fault Refusal :=
  if s.lcp = 0 then .next (s.emit .initStart).nextLcp
  else if s.lcp = 1 then issueWord 0x01000000#32 s.nextLcp
  else if s.lcp = 2 then
    .next (if s.status = .ok then s.enterLcs .busReady else (s.emit (.initFail s.status)).enterLcs .halted)
  else .fault .noRule

/-- R172 step 2: the report of the identity read. The mismatch warning is an `Emit` of its own, so it is a machine
step of its own (log entry 9). -/
def reportIdentity (s : State) : State :=
  if s.mismatchDue then { s.emit .idMismatch with mismatchDue := false }.nextLcp
  else if s.status = .ok then
    if s.ident = Config.idExpected then (s.emit (.ident s.ident)).nextLcp
    else { s.emit (.ident s.ident) with mismatchDue := true }
  else (s.emit (.idReadFail s.status)).nextLcp

/-- R172. -/
def lcBusReady (s : State) : Host.Outcome State Fault Refusal :=
  if s.lcp = 0 then issueWord 0x04000000#32 s.nextLcp
  else if s.lcp = 1 then .next (reportIdentity s)
  else if s.lcp = 2 then .next (s.enterLcs .identityChecked)
  else .fault .noRule

/-- R173. -/
def lcIdentityChecked (s : State) : Host.Outcome State Fault Refusal :=
  if s.lcp = 0 then issueWord 0x05000000#32 s.nextLcp
  else if s.lcp = 1 then
    .next (if s.initErr = 0#3 then s else s.emit (.initWriteFail s.initErr)).nextLcp
  else if s.lcp = 2 then .next (s.emit .initDone).nextLcp
  else if s.lcp = 3 then .next (s.enterLcs .measurementActive)
  else .fault .noRule

/-- R174. -/
def lcMeasurementActive (s : State) : Host.Outcome State Fault Refusal :=
  if s.lcp = 0 then .next (s.enterLcs .sampling) else .fault .noRule

/-- R175 step 2: the sample, or in its place the failure (R176). -/
def reportSample (s : State) : State :=
  if s.status = .ok then s.emit (.sample s.ax s.ay s.az) else s.emit (.sampleFail s.status)

/-- R175, R176. -/
def lcSampling (s : State) : Host.Outcome State Fault Refusal :=
  if s.lcp = 0 then issueWord 0x06000000#32 s.nextLcp
  else if s.lcp = 1 then .next (reportSample s).nextLcp
  else if s.lcp = 2 then .next (s.wait Config.sampleMs).nextLcp
  else if s.lcp = 3 then .next { s with lcp := 0 }
  else .fault .noRule

/-- The Loop Controller between operations (R170 to R178). In Halted nothing more happens (R178; log entry 14). -/
def lcStep (s : State) : Host.Outcome State Fault Refusal :=
  match s.lcs with
  | .uninitialized => lcUninitialized s
  | .busReady => lcBusReady s
  | .identityChecked => lcIdentityChecked s
  | .measurementActive => lcMeasurementActive s
  | .sampling => lcSampling s
  | .halted => .next s

/-! ## The next step of the block -/

/-- With no reset, and given that the environment responds: the operation in progress takes its next step; between
operations the issuer does (R8, R120, R170). -/
def runStep (s : State) : Host.Outcome State Fault Refusal :=
  match s.inProgress with
  | some i => exec i s
  | none =>
    match s.issuer with
    | .loopController => lcStep s
    | .commandPort => portStep s

end Sys2Proof.Machine
end

