-- ==== Sys2Proof/Machine/Step.lean ====
section
/-! DEFINITION. One step of the machine, and how a word is placed where the next step takes it. -/

namespace Sys2Proof.Machine

/-- One step: the reset input is sampled (70_reset_and_hazards.md R230), and when it is low the block takes its next
step, or waits at its request while the environment does not respond (40_bus_transport.md R109). -/
def step (s : State) : Host.Outcome State Fault Refusal :=
  if s.rstSample then .next s.sampled.resetBlock else onceAnswered s.sampled (runStep s.sampled)

/-- The state in which the next step takes the given word: the operations run alone from the command port, the word
is the first that waits there, no operation is in progress, the reset input's next sample is low, and the transport
responds to the request the word may make (R120, D4, R109; log entry 6). -/
def State.withFetchWord (s : State) (nbits w : Nat) : State :=
  { s with
    issuer := .commandPort
    cmds := tableWord nbits w :: s.cmds
    opr := .none
    ph := .idle
    transportResponds := true :: s.transportResponds
    rst := match s.rst with
      | [] => []
      | _ :: rest => false :: rest }

end Sys2Proof.Machine
end

