-- ==== Sys2Proof/Safety.lean ====
section
/-! DEFINITION. The terms claims use: the invariants of the state, the properties of a trace (its newest event
first), and runs of the machine. -/

namespace Sys2Proof.Machine

/-! ## Runs -/

/-- `n` steps of the machine lead from `s` to `t`. -/
abbrev Runs (n : Nat) (s t : State) : Prop := Host.Core.run Sys2Proof.core n s = .next t

/-- The command port is about to take the word `w`: the operations run alone, none is in progress, and the reset
input stays low (41_register_access.md R120, 92_eei_decisions.md D4). -/
structure State.AtPort (s : State) (w : Word) (rest : List Word) : Prop where
  low : s.rst = []
  free : s.opr = .none
  port : s.issuer = .commandPort
  word : s.cmds = w :: rest

/-- It is the Loop Controller's turn: no operation is in progress, the block is the assembled one, and the reset
input's next sample is low (43_sampling_loop.md R170). -/
structure State.LcTurn (s : State) : Prop where
  low : s.rstSample = false
  free : s.opr = .none
  lc : s.issuer = .loopController

/-- The premise `TransportResponds`, `DelayCompletes` or `SinkAccepts` of 40_bus_transport.md R109 for the next `n`
requests: each is responded to when it is made. A premise of claims, not a fact of the block. -/
def granted (n : Nat) : List Bool := List.replicate n true

/-- The state after one `T.IsBusy` that answers `b`, before anything that follows it (40_bus_transport.md R104). -/
def State.polled (s : State) (b : Bool) : State :=
  { s with trace := .tBusy b :: s.trace, busyAnswers := s.busyAnswers.tail, draws := s.draws + 1 }

/-- The events of `k` polls that answer true and one that answers false, newest first (R105). -/
def pollEvents (k : Nat) : List Event := .tBusy false :: List.replicate k (.tBusy true)

/-- The answers of `k` polls that answer true and one that answers false, oldest first: the premise
`BusEventuallyIdle` of R109 with its bound. -/
def idleAfter (k : Nat) : List Bool := List.replicate k true ++ [false]

/-! ## The control registers hold values some rule writes -/

/-- The phases an operation in progress goes through (10_state.md R23). -/
def opHasPhase (op : Op) (p : Phase) : Bool :=
  match op with
  | .none => p == .idle
  | .binit => false
  | .wrreg => p == .wSend || p == .wPoll
  | .rdregs => p == .aSend || p == .aPoll || p == .bRecv || p == .bPoll
  | .rdid => p == .aSend || p == .aPoll || p == .bRecv || p == .bPoll
  | .sinit => p == .wSend || p == .wPoll || p == .sDelay
  | .rdsmp => p == .aSend || p == .aPoll || p == .bRecv || p == .bPoll
  | .decode => false

/-- The operations built on a read access (41_register_access.md R122, 42_sensor_driver.md R144, R146). -/
def opReads : Op → Bool
  | .none => false
  | .binit => false
  | .wrreg => false
  | .rdregs => true
  | .rdid => true
  | .sinit => false
  | .rdsmp => true
  | .decode => false

/-- A phase that polls (R23). -/
def Phase.polls : Phase → Bool
  | .idle => false
  | .wSend => false
  | .wPoll => true
  | .aSend => false
  | .aPoll => true
  | .bRecv => false
  | .bPoll => true
  | .sDelay => false

/-- The index of the last step of each Loop Controller state (R171 to R178). -/
def LcState.lastStep : LcState → Fin 8
  | .uninitialized => 2
  | .busReady => 2
  | .identityChecked => 3
  | .measurementActive => 0
  | .sampling => 3
  | .halted => 0

/-- The registers hold together values the rules write: what every step keeps, whoever issues the words. -/
structure State.Inv (s : State) : Prop where
  /-- `PH` is a phase of `OPR` (R23). -/
  phase : opHasPhase s.opr s.ph = true
  /-- An operation that uses the bus is in progress only when the bus is ready (R120). -/
  ready : s.opr ≠ .none → s.busReady = true
  /-- A read in progress has a length (R123). -/
  length : opReads s.opr = true → s.len ≠ 0
  /-- `LCP` is a step of `LCS` (R21). -/
  lcp : s.lcp ≤ s.lcs.lastStep
  /-- RDID's operands (R144). -/
  rdid : s.opr = .rdid → s.dev = Config.devAddr ∧ s.reg = Config.regDevid ∧ s.len = 1
  /-- RDSMP's operands (R146). -/
  rdsmp : s.opr = .rdsmp → s.dev = Config.devAddr ∧ s.reg = Config.regDatax0 ∧ s.len = Config.sampleLen
  /-- SINIT's operands (R141). -/
  sinit : s.opr = .sinit → s.dev = Config.devAddr ∧ s.reg = sinitReg s.istep ∧ s.val = sinitVal s.istep
  /-- The mismatch warning is due only in step 2 of R172. -/
  due : s.mismatchDue = true → s.lcs = .busReady ∧ s.lcp = 1

/-- The status values with which the Loop Controller can find `STATUS` in each of its states (60_exceptions.md
R203). -/
def LcState.allows (l : LcState) (c : Status) : Bool :=
  match l with
  | .uninitialized => c == .ok || c == .busUnavailable || c == .config
  | .busReady => c == .ok || c == .transfer
  | .identityChecked => c == .ok || c == .transfer
  | .measurementActive => c == .ok || c == .transfer
  | .sampling => c == .ok || c == .transfer
  | .halted => c == .busUnavailable || c == .config

/-- When the assembled block has a bus handle (10_state.md R22, R171, R178). -/
def State.lcReady (s : State) : Bool :=
  match s.lcs with
  | .uninitialized => s.lcp == 2 && s.status == .ok
  | .busReady => true
  | .identityChecked => true
  | .measurementActive => true
  | .sampling => true
  | .halted => false

/-- The assembled block: the Loop Controller is the only issuer, and what it has issued fits where it stands
(R170 to R180). -/
structure State.LcInv (s : State) : Prop where
  lc : s.issuer = .loopController
  /-- The operation in progress is the one the state's step issues (R171 to R175). -/
  op : s.opr ≠ .none → s.lcp = 1 ∧ s.mismatchDue = false ∧
    ((s.opr = .rdid ∧ s.lcs = .busReady) ∨ (s.opr = .sinit ∧ s.lcs = .identityChecked) ∨
      (s.opr = .rdsmp ∧ s.lcs = .sampling))
  ready : s.busReady = s.lcReady
  status : LcState.allows s.lcs s.status = true

/-! ## Properties of a trace, newest event first -/

/-- One `T.Send` or `T.Receive` (00_scope.md R9 "transfer"). -/
def Event.isTransfer : Event → Bool
  | .tInit _ _ => false
  | .tSend _ _ _ _ => true
  | .tRecv _ _ _ _ => true
  | .tBusy _ => false
  | .delay _ => false
  | .emit _ => false

/-- The newest transfer of a trace. -/
def lastTransfer : List Event → Option Event
  | [] => none
  | e :: t => if e.isTransfer then some e else lastTransfer t

/-- The newest transfer has not yet been followed by a poll that answered false. -/
def pollPending : List Event → Bool
  | [] => false
  | .tInit _ _ :: t => pollPending t
  | .tSend _ _ _ _ :: _ => true
  | .tRecv _ _ _ _ :: _ => true
  | .tBusy b :: t => b && pollPending t
  | .delay _ :: t => pollPending t
  | .emit _ :: t => pollPending t

/-- Between any two transfers stands a poll that answered false (70_reset_and_hazards.md R234). -/
def serialized : List Event → Bool
  | [] => true
  | e :: t => (!e.isTransfer || !pollPending t) && serialized t

/-- The peer whose bus is held: the newest transfer is an address frame that was accepted (10_state.md R35 (b),
70_reset_and_hazards.md R240). -/
def heldBy (t : List Event) : Option DevAddr :=
  match lastTransfer t with
  | some (.tSend dev _ true .ok) => some dev
  | _ => none

/-- While the bus is held nothing but polls is issued, until the receive from the same device; and a receive is
issued at no other time (R124, R237, R240). -/
def readsPaired : List Event → Bool
  | [] => true
  | .tRecv dev _ _ _ :: t => heldBy t == some dev && readsPaired t
  | .tBusy _ :: t => readsPaired t
  | .tInit _ _ :: t => heldBy t == none && readsPaired t
  | .tSend _ _ _ _ :: t => heldBy t == none && readsPaired t
  | .delay _ :: t => heldBy t == none && readsPaired t
  | .emit _ :: t => heldBy t == none && readsPaired t

/-- The event has one of the forms of 30_encoding.md R75 to R77, R80, R82: a two-byte frame with a stop or a
one-byte frame without, a receive of 1 to 255 bytes that delivers all of them or none, the one bus frequency, the two
delays. -/
def Event.wellFormed : Event → Bool
  | .tInit hz _ => hz == 100000
  | .tSend _ bytes nostop _ => bytes.length == (if nostop then 1 else 2)
  | .tRecv _ n r data => 1 ≤ n && n ≤ 255 && data.length == (if r = .ok then n else 0)
  | .tBusy _ => true
  | .delay ms => ms == 10 || ms == 500
  | .emit _ => true

/-- A `T.Init` that answered OK. -/
def Event.isInitOk : Event → Bool
  | .tInit _ r => r == .ok
  | .tSend _ _ _ _ => false
  | .tRecv _ _ _ _ => false
  | .tBusy _ => false
  | .delay _ => false
  | .emit _ => false

/-- The bus is used only after a successful `T.Init`, and no `T.Init` follows one (40_bus_transport.md R100). -/
def usedAfterInit : List Event → Bool
  | [] => true
  | .tInit _ _ :: t => !t.any Event.isInitOk && usedAfterInit t
  | .tSend _ _ _ _ :: t => t.any Event.isInitOk && usedAfterInit t
  | .tRecv _ _ _ _ :: t => t.any Event.isInitOk && usedAfterInit t
  | .tBusy _ :: t => t.any Event.isInitOk && usedAfterInit t
  | .delay _ :: t => usedAfterInit t
  | .emit _ :: t => usedAfterInit t

/-- The newest write frame has not yet been followed by the 10 ms settle delay. -/
def settlePending : List Event → Bool
  | [] => false
  | .tInit _ _ :: t => settlePending t
  | .tSend _ _ nostop _ :: t => !nostop || settlePending t
  | .tRecv _ _ _ _ :: t => settlePending t
  | .tBusy _ :: t => settlePending t
  | .delay ms :: t => ms != 10 && settlePending t
  | .emit _ :: t => settlePending t

/-- Every write frame is followed by the settle delay before the next transfer (42_sensor_driver.md R143, R235). -/
def settled : List Event → Bool
  | [] => true
  | e :: t => (!e.isTransfer || !settlePending t) && settled t

/-- The bytes of the newest transfer when it is a receive that succeeded. -/
def lastData (t : List Event) : Option (List Byte) :=
  match lastTransfer t with
  | some (.tRecv _ _ .ok data) => some data
  | _ => none

/-- The three axes of six bytes (R147). -/
def decodeBytes : List Byte → Option (Axis × Axis × Axis)
  | [b0, b1, b2, b3, b4, b5] => some (decodeAxis b0 b1, decodeAxis b2 b3, decodeAxis b4 b5)
  | _ => none

/-- Every reported sample is the decoding of the six bytes of the newest transfer, a receive that succeeded, and
every reported identity is its one byte (R239, R149, R172). -/
def reportsFaithful : List Event → Bool
  | [] => true
  | .emit (.sample x y z) :: t => (lastData t).bind decodeBytes == some (x, y, z) && reportsFaithful t
  | .emit (.ident b) :: t => lastData t == some [b] && reportsFaithful t
  | _ :: t => reportsFaithful t

/-! ## The order of reports (43_sampling_loop.md R179) -/

/-- What has been reported so far. -/
inductive ReportStage where
  | nothing
  | started
  | failed
  | mismatched
  | identified
  | writeFailed
  | sampling
  deriving DecidableEq, Repr

/-- The order of R179: which report may follow, and where it leads. A wrong identity byte is followed by the
mismatch warning (R172). -/
def ReportStage.next (g : ReportStage) (r : Report) : Option ReportStage :=
  match g, r with
  | .nothing, .initStart => some .started
  | .started, .initFail _ => some .failed
  | .started, .ident id => some (if id = 0xE5#8 then .identified else .mismatched)
  | .mismatched, .idMismatch => some .identified
  | .started, .idReadFail _ => some .identified
  | .identified, .initWriteFail _ => some .writeFailed
  | .identified, .initDone => some .sampling
  | .writeFailed, .initDone => some .sampling
  | .sampling, .sample _ _ _ => some .sampling
  | .sampling, .sampleFail _ => some .sampling
  | _, _ => none

/-- Where the reports of a trace have led, or nothing when they break the order. -/
def reportStage : List Event → Option ReportStage
  | [] => some .nothing
  | .emit r :: t => (reportStage t).bind fun g => g.next r
  | _ :: t => reportStage t

/-- What the Loop Controller has reported by the step it stands at (R171 to R175). -/
def State.reported (s : State) : ReportStage :=
  match s.lcs with
  | .uninitialized => if s.lcp = 0 then .nothing else .started
  | .busReady => if s.lcp = 2 then .identified else if s.mismatchDue then .mismatched else .started
  | .identityChecked =>
    if s.lcp = 3 then .sampling
    else if s.lcp = 2 ∧ s.initErr ≠ 0#3 then .writeFailed
    else .identified
  | .measurementActive => .sampling
  | .sampling => .sampling
  | .halted => .failed

/-! ## Invariants of state and trace together -/

/-- The trace is serialized, and a poll is due exactly in the polling phases (R234). -/
structure State.BusInv (s : State) : Prop where
  trace : serialized s.trace = true
  pending : pollPending s.trace = s.ph.polls

/-- The peer that holds the bus while the block stands where it stands: from an accepted address frame to the receive
(10_state.md R35 (b)). -/
def State.heldPeer (s : State) : Option DevAddr :=
  match s.ph, s.xres with
  | .aPoll, .ok => some s.dev
  | .bRecv, _ => some s.dev
  | _, _ => none

/-- The reads of the trace are paired, and the bus is held exactly between the two phases of a read (R35 (b), R240). -/
structure State.HoldInv (s : State) : Prop where
  trace : readsPaired s.trace = true
  held : heldBy s.trace = s.heldPeer

/-- The bus is used after initialisation only, and `BUS_READY` says that it has happened (R22, R100). -/
structure State.InitInv (s : State) : Prop where
  trace : usedAfterInit s.trace = true
  ready : s.busReady = s.trace.any Event.isInitOk

/-- Under the Loop Controller every write has settled before the next transfer (R235). -/
structure State.SettleInv (s : State) : Prop where
  trace : settled s.trace = true
  pending : settlePending s.trace = true ↔ s.opr = .sinit ∧ (s.ph = .wPoll ∨ s.ph = .sDelay)

/-- What is reported is what was received (R239): the received bytes are followed from the transfer to the buffer, to
`IDENT` and the axes, and to the report. -/
structure State.ReportInv (s : State) : Prop where
  trace : reportsFaithful s.trace = true
  buffer : s.ph = .bPoll → s.xres = .ok → lastData s.trace = some (s.rxbuf.toList.take s.len.toNat)
  ident : s.opr = .none → s.lcs = .busReady → s.lcp = 1 → s.status = .ok → lastData s.trace = some [s.ident]
  axes : s.opr = .none → s.lcs = .sampling → s.lcp = 1 → s.status = .ok →
    (lastData s.trace).bind decodeBytes = some (s.ax, s.ay, s.az)

end Sys2Proof.Machine
end

