-- ==== Sys2Proof/Certificates/Slice0/Obligations.lean ====
section
/-! DEFINITION. The statements about the model, one definition each.

A statement that gives a whole next state gives the model's own fields too: the trace (log entry 5), the scripted
answers and responses and the counter of free draws (log entries 2, 3 and 4). What it says of those fields is the
model's choice, not a rule of the spec; no statement gives a free value a value. A statement about `exec` says what an
instruction does when the environment responds; a statement about `step` says it of a block that may have to wait. -/

open Sys2Proof Sys2Proof.Machine

/-! ## Encoding (30_encoding.md) -/

/-- R71 to R73: decoding the word of an instruction gives the instruction back, every operand at every value. -/
def Obligations.DecodeEncodeRoundTrip : Prop := ∀ i : Instr, decode (encode i) = .ok i

/-- R71 to R73: a word that decodes is the one word of its instruction. -/
def Obligations.DecodeOnlyEncodings : Prop := ∀ (w : Word) (i : Instr), decode w = .ok i → encode i = w

/-- R73: no word matches two rows, and a word decodes to the operation of the row it matches. -/
def Obligations.DecodeSelectsTheRow : Prop :=
  ∀ w : Word,
    (opcodeTable.filter fun r => r.selects w).length ≤ 1 ∧
    (∀ r ∈ opcodeTable, r.selects w = true → ∃ i, decode w = .ok i ∧ i.op = r.op) ∧
    (∀ i, decode w = .ok i → ∃ r ∈ opcodeTable, r.selects w = true ∧ r.op = i.op)

/-- R74: which words are illegal; such a word at the command port changes STATUS and nothing else; and the words the
Loop Controller issues are legal. The fields are taken from the word by shifts, not by the decoder's own functions. -/
def Obligations.IllegalWordRefused : Prop :=
  (∀ w : Word,
    legalWord w = false ↔
      w >>> 24 &&& 7#32 = 0 ∨ w >>> 27 ≠ 0 ∨ w >>> 23 &&& 1#32 ≠ 0 ∨
      (w >>> 24 &&& 7#32 ≠ 2 ∧ w >>> 24 &&& 7#32 ≠ 3 ∧ w &&& 0x007FFFFF#32 ≠ 0)) ∧
  (∀ (s : State) (w : Word) (ws : List Word), s.AtPort w ws → legalWord w = false →
    step s = .next { s with cmds := ws, status := .illegal }) ∧
  (∀ w ∈ [0x01000000#32, 0x04000000#32, 0x05000000#32, 0x06000000#32], legalWord w = true)

/-- Words written out from the table of R73 and the layout of R71 decode to the instruction they stand for
(95_test_vectors.md V-E1 to V-E14). -/
def Obligations.SpecWordsDecode : Prop :=
  decode 0b00000001000000000000000000000000#32 = .ok .binit ∧
  decode 0b00000010010100110010110100001000#32 = .ok (.wrreg 0x53 0x2D 0x08) ∧
  decode 0b00000010011111111111111111111111#32 = .ok (.wrreg 0x7F 0xFF 0xFF) ∧
  decode 0b00000011010100110011001000000110#32 = .ok (.rdregs 0x53 0x32 6) ∧
  decode 0b00000100000000000000000000000000#32 = .ok .rdid ∧
  decode 0b00000101000000000000000000000000#32 = .ok .sinit ∧
  decode 0b00000110000000000000000000000000#32 = .ok .rdsmp ∧
  decode 0b00000111000000000000000000000000#32 = .ok .decode

/-! ## The step -/

/-- A word at the command port that decodes to `i`: with no operation in progress and no reset, a step is `exec` of
`i`, the word taken and the reset sample used up, once its request is answered (R120, R109, D4; the port is log entry 6,
the reset sample log entry 7, and what `onceAnswered` does is said by OneEventPerStep). -/
def Obligations.StepTakesCommandWord : Prop :=
  ∀ (s : State) (w : Word) (ws : List Word) (i : Instr),
    s.rstSample = false → s.opr = .none → s.issuer = .commandPort → s.cmds = w :: ws → decode w = .ok i →
    step s = onceAnswered { s with rst := s.rst.tail } (exec i { s with rst := s.rst.tail, cmds := ws })

/-- An operation in progress is continued by the next step, whoever issued it: a step is `exec` of that operation,
once its request is answered (R8, R23, R109, R120; what `onceAnswered` does is said by OneEventPerStep). -/
def Obligations.StepContinuesOperation : Prop :=
  ∀ s : State, s.rstSample = false → s.opr ≠ .none →
    ∃ i, s.inProgress = some i ∧ i.op = s.opr ∧
      step s = onceAnswered { s with rst := s.rst.tail } (exec i { s with rst := s.rst.tail })

/-- R230: a step with `rst` high forgets the operation and gives every control register its reset value; no request
is issued (a new run begins with an empty trace: log entries 5 and 7). -/
def Obligations.StepUnderReset : Prop :=
  ∀ s : State, s.rstSample = true →
    ∃ t, step s = .next t ∧ t.lcs = .uninitialized ∧ t.lcp = 0 ∧ t.busReady = false ∧ t.opr = .none ∧ t.ph = .idle ∧
      t.status = .ok ∧ t.initErr = 0#3 ∧ t.istep = 0 ∧ t.xres = .ok ∧ t.trace = [] ∧ t.issuer = s.issuer ∧
      t.sendAnswers = s.sendAnswers ∧ t.recvAnswers = s.recvAnswers ∧ t.busyAnswers = s.busyAnswers ∧
      t.initAnswers = s.initAnswers ∧ t.transportResponds = s.transportResponds ∧
      t.delayCompletes = s.delayCompletes ∧ t.sinkAccepts = s.sinkAccepts

/-- R37: the control registers after reset. -/
def Obligations.ResetValues : Prop :=
  State.reset.lcs = .uninitialized ∧ State.reset.lcp = 0 ∧ State.reset.busReady = false ∧ State.reset.opr = .none ∧
  State.reset.ph = .idle ∧ State.reset.status = .ok ∧ State.reset.initErr = 0#3 ∧ State.reset.istep = 0 ∧
  State.reset.xres = .ok

/-! ## Admission (41_register_access.md R120) -/

/-- R236: with the bus not initialised every operation that uses the bus is refused with `E_NOT_READY`, and nothing
but STATUS changes: also a read of length 0 (R123). -/
def Obligations.NotReadyRefused : Prop :=
  ∀ (i : Instr) (s : State), i.op ≠ .binit → i.op ≠ .decode → s.opr = .none → s.busReady = false →
    exec i s = .next { s with status := .notReady }

/-- R120: a new command word is taken only when `OPR = 0`; an instruction that is not the one in progress changes
nothing (log entry 13). -/
def Obligations.OneOperationAtATime : Prop :=
  ∀ (i : Instr) (s : State), s.opr ≠ .none → s.opr ≠ i.op → exec i s = .next s

/-- The bus operations begin: the operands are latched, `OPR` and `PH` are set, nothing else changes (R73, R121,
R122, R141, R144, R146). That this is a step of its own is log entry 10. -/
def Obligations.BusOperationsBegin : Prop :=
  ∀ s : State, s.opr = .none → s.busReady = true →
    (∀ dev reg val, exec (.wrreg dev reg val) s =
      .next { s with dev := dev, reg := reg, val := val, opr := .wrreg, ph := .wSend }) ∧
    (∀ dev reg len, len ≠ 0 → exec (.rdregs dev reg len) s =
      .next { s with dev := dev, reg := reg, len := len, opr := .rdregs, ph := .aSend }) ∧
    exec .rdid s =
      .next { s with dev := Config.devAddr, reg := Config.regDevid, len := 1, opr := .rdid, ph := .aSend } ∧
    exec .rdsmp s =
      .next { s with dev := Config.devAddr, reg := Config.regDatax0, len := 6, opr := .rdsmp, ph := .aSend } ∧
    exec .sinit s =
      .next { s with initErr := 0#3, istep := 0, dev := Config.devAddr, reg := Config.regPowerCtl, val := 0x00,
                     opr := .sinit, ph := .wSend }

/-! ## BINIT -/

/-- R106: BINIT asks the transport once for 100000 Hz; `BUS_READY` is set on OK only; STATUS is the answer; a repeated
BINIT is refused with no event. -/
def Obligations.BinitInitialisesBus : Prop :=
  ∀ s : State, s.opr = .none → s.ph = .idle →
    (s.busReady = false → s.initAnswer = .ok → exec .binit s =
      .next { s with busReady := true, status := .ok, trace := .tInit 100000 .ok :: s.trace,
                     initAnswers := s.initAnswers.tail, draws := s.draws + 1 }) ∧
    (∀ r, s.busReady = false → s.initAnswer = r → r ≠ .ok → exec .binit s =
      .next { s with status := (if r = .config then .config else .busUnavailable),
                     trace := .tInit 100000 r :: s.trace,
                     initAnswers := s.initAnswers.tail, draws := s.draws + 1 }) ∧
    (s.busReady = true → exec .binit s = .next { s with status := .illegal })

/-! ## The register accesses, phase by phase -/

/-- W_SEND of WRREG and SINIT: one T.Send of `[REG, VAL]` to `DEV` with a stop; the result waits in XRES (R121,
R141, R75). -/
def Obligations.WriteFrameSent : Prop :=
  ∀ (i : Instr) (s : State), i.op = .wrreg ∨ i.op = .sinit → s.opr = i.op → s.ph = .wSend →
    exec i s =
      .next { s with txbuf := #v[s.reg, s.val], xres := s.sendAnswer, ph := .wPoll,
                     trace := .tSend s.dev [s.reg, s.val] false s.sendAnswer :: s.trace,
                     sendAnswers := s.sendAnswers.tail, draws := s.draws + 1 }

/-- A_SEND of RDREGS, RDID and RDSMP: one T.Send of `[REG]` to `DEV` with no stop; `TXBUF[1]` stays (R122, R76, R28). -/
def Obligations.AddressFrameSent : Prop :=
  ∀ (i : Instr) (s : State), opReads i.op = true → s.opr = i.op → s.ph = .aSend →
    exec i s =
      .next { s with txbuf := #v[s.reg, s.txbuf[1]], xres := s.sendAnswer, ph := .aPoll,
                     trace := .tSend s.dev [s.reg] true s.sendAnswer :: s.trace,
                     sendAnswers := s.sendAnswers.tail, draws := s.draws + 1 }

/-- R105: while T.IsBusy answers true the poll is repeated, in every polling phase of every operation. -/
def Obligations.BusyPollRepeats : Prop :=
  ∀ (i : Instr) (s : State), s.opr = i.op → opHasPhase i.op s.ph = true → s.ph.polls = true → s.busyAnswer = true →
    exec i s = .next (s.polled true)

/-- The end of WRREG: after the poll STATUS is the send's result, whatever it is (R121, R127). -/
def Obligations.WrregReturns : Prop :=
  ∀ (s : State) (dev : DevAddr) (reg val : Byte), s.opr = .wrreg → s.ph = .wPoll → s.busyAnswer = false →
    exec (.wrreg dev reg val) s =
      .next { s.polled false with status := (if s.xres = .ok then .ok else .transfer), opr := .none, ph := .idle }

/-- The end of phase (a) with the send accepted: on to the receive (R122). -/
def Obligations.AddressPhaseAccepted : Prop :=
  ∀ (i : Instr) (s : State), opReads i.op = true → s.opr = i.op → s.ph = .aPoll → s.busyAnswer = false →
    s.xres = .ok → exec i s = .next { s.polled false with ph := .bRecv }

/-- B_RECV: one T.Receive of `LEN` bytes. On OK `RXBUF[0..LEN-1]` are the bytes received; on an error they are
undefined, so nothing is said of them; the other bytes keep their value (R122, R29). -/
def Obligations.BytesReceived : Prop :=
  ∀ (i : Instr) (s : State), opReads i.op = true → s.opr = i.op → s.ph = .bRecv →
    ∃ t, exec i s = .next t ∧ t.ph = .bPoll ∧ t.opr = s.opr ∧ t.xres = s.recvAnswer ∧ t.status = s.status ∧
      t.trace = .tRecv s.dev s.len.toNat s.recvAnswer
        (if s.recvAnswer = .ok then (List.range s.len.toNat).map s.recvByte else []) :: s.trace ∧
      (∀ (j : Nat) (h : j < 255), s.recvAnswer = .ok ∨ s.len.toNat ≤ j →
        t.rxbuf[j] = if j < s.len.toNat then s.recvByte j else s.rxbuf[j])

/-- The two ends of RDREGS: after the last poll STATUS is the receive's result; after a failed send it is
`E_TRANSFER`, and `RXBUF[0..LEN-1]` are undefined (R122, R124). -/
def Obligations.RdregsReturns : Prop :=
  ∀ (s : State) (dev : DevAddr) (reg len : Byte), s.opr = .rdregs → s.busyAnswer = false →
    (s.ph = .bPoll → exec (.rdregs dev reg len) s =
      .next { s.polled false with status := (if s.xres = .ok then .ok else .transfer), opr := .none, ph := .idle }) ∧
    (s.ph = .aPoll → s.xres ≠ .ok →
      ∃ rx : Vector Byte 255, (∀ (j : Nat) (h : j < 255), s.len.toNat ≤ j → rx[j] = s.rxbuf[j]) ∧
        exec (.rdregs dev reg len) s =
          .next { s.polled false with status := .transfer, opr := .none, ph := .idle, rxbuf := rx,
                                      draws := s.draws + 2 })

/-- R123: RDREGS with `len = 0` issues nothing and succeeds; with the bus not initialised it is `E_NOT_READY`. -/
def Obligations.ZeroLengthRead : Prop :=
  ∀ (s : State) (dev : DevAddr) (reg : Byte), s.opr = .none → s.ph = .idle →
    (s.busReady = true → exec (.rdregs dev reg 0) s =
      .next { s with dev := dev, reg := reg, len := 0, status := .ok }) ∧
    (s.busReady = false → exec (.rdregs dev reg 0) s = .next { s with status := .notReady })

/-- The two ends of RDID: IDENT is the byte read, or undefined after either phase failed (R144). -/
def Obligations.RdidReturns : Prop :=
  ∀ s : State, s.opr = .rdid → s.busyAnswer = false →
    (s.ph = .bPoll → s.xres = .ok → exec .rdid s =
      .next { s.polled false with ident := s.rxbuf[0], status := .ok, opr := .none, ph := .idle }) ∧
    (s.ph = .bPoll → s.xres ≠ .ok → ∃ b : Byte, exec .rdid s =
      .next { s.polled false with ident := b, status := .transfer, opr := .none, ph := .idle,
                                  draws := s.draws + 2 }) ∧
    (s.ph = .aPoll → s.xres ≠ .ok →
      ∃ (b : Byte) (rx : Vector Byte 255), (∀ (j : Nat) (h : j < 255), s.len.toNat ≤ j → rx[j] = s.rxbuf[j]) ∧
        exec .rdid s =
          .next { s.polled false with ident := b, rxbuf := rx, status := .transfer, opr := .none, ph := .idle,
                                      draws := s.draws + 3 })

/-- The two ends of RDSMP: the axes are the decoding of `RXBUF[0..5]`, or undefined after either phase failed (R146,
R149). -/
def Obligations.RdsmpReturns : Prop :=
  ∀ s : State, s.opr = .rdsmp → s.busyAnswer = false →
    (s.ph = .bPoll → s.xres = .ok → exec .rdsmp s =
      .next { s.polled false with ax := s.rxbuf[1] ++ s.rxbuf[0], ay := s.rxbuf[3] ++ s.rxbuf[2],
                                  az := s.rxbuf[5] ++ s.rxbuf[4], status := .ok, opr := .none, ph := .idle }) ∧
    (s.ph = .bPoll → s.xres ≠ .ok → ∃ x y z : Axis, exec .rdsmp s =
      .next { s.polled false with ax := x, ay := y, az := z, status := .transfer, opr := .none, ph := .idle,
                                  draws := s.draws + 2 }) ∧
    (s.ph = .aPoll → s.xres ≠ .ok →
      ∃ (x y z : Axis) (rx : Vector Byte 255),
        (∀ (j : Nat) (h : j < 255), s.len.toNat ≤ j → rx[j] = s.rxbuf[j]) ∧
        exec .rdsmp s =
          .next { s.polled false with ax := x, ay := y, az := z, rxbuf := rx, status := .transfer, opr := .none,
                                      ph := .idle, draws := s.draws + 3 })

/-- The end of a write's poll in SINIT: bit `ISTEP` of INITERR says whether the write failed, the other bits stay, and
the settle delay comes next, also after a failed write (R141, R142). -/
def Obligations.SinitRecordsWrite : Prop :=
  ∀ s : State, s.opr = .sinit → s.ph = .wPoll → s.busyAnswer = false →
    ∃ m : BitVec 3, m.getLsbD s.istep.val = (s.xres != .ok) ∧
      (∀ j, j ≠ s.istep.val → m.getLsbD j = s.initErr.getLsbD j) ∧
      exec .sinit s = .next { s.polled false with initErr := m, ph := .sDelay }

/-- The settle delay of SINIT: 10 ms, then the next write of the table of R141, and after the third the return with
`E_TRANSFER` when a bit of INITERR is set (R141, R142, R143). -/
def Obligations.SinitSettles : Prop :=
  ∀ s : State, s.opr = .sinit → s.ph = .sDelay →
    (s.istep = 0 → exec .sinit s =
      .next { s with trace := .delay 10 :: s.trace, istep := 1, dev := Config.devAddr, reg := Config.regPowerCtl,
                     val := 0x08, ph := .wSend }) ∧
    (s.istep = 1 → exec .sinit s =
      .next { s with trace := .delay 10 :: s.trace, istep := 2, dev := Config.devAddr, reg := Config.regDataFormat,
                     val := 0x01, ph := .wSend }) ∧
    (s.istep = 2 → exec .sinit s =
      .next { s with trace := .delay 10 :: s.trace, status := (if s.initErr = 0#3 then .ok else .transfer),
                     opr := .none, ph := .idle })

/-! ## Whole operations, from the command word to the return -/

/-- R121: a WRREG from its command word to its return, for every answer of the send and every number of polls. The
number of steps is the model's own granularity (log entry 10), here and below. The premise TransportResponds of R109
(of SINIT also DelayCompletes) is a hypothesis, here and below, and BusEventuallyIdle is `idleAfter`. -/
def Obligations.WrregRuns : Prop :=
  ∀ (s : State) (dev : DevAddr) (reg val : Byte) (ws : List Word) (k : Nat) (r : XferResult) (rs : List XferResult)
    (bs ts : List Bool),
    s.AtPort (encode (.wrreg dev reg val)) ws → s.busReady = true → s.transportResponds = granted (k + 2) ++ ts →
    s.sendAnswers = r :: rs →
    s.busyAnswers = idleAfter k ++ bs →
    Runs (k + 3) s
      { s with
        cmds := ws, dev := dev, reg := reg, val := val, txbuf := #v[reg, val], xres := r, ph := .idle
        status := (if r = .ok then .ok else .transfer)
        trace := pollEvents k ++ .tSend dev [reg, val] false r :: s.trace
        sendAnswers := rs, busyAnswers := bs, transportResponds := ts, draws := s.draws + 2 * k + 4 }

/-- R122: an RDREGS of `n > 0` bytes whose two transfers succeed. -/
def Obligations.RdregsRuns : Prop :=
  ∀ (s : State) (dev : DevAddr) (reg len : Byte) (ws : List Word) (k m : Nat) (data : List Byte)
    (rs : List XferResult) (ds : List RecvAnswer) (bs ts : List Bool),
    s.AtPort (encode (.rdregs dev reg len)) ws → s.busReady = true → len ≠ 0 →
    s.transportResponds = granted (k + m + 4) ++ ts → s.sendAnswers = .ok :: rs →
    s.recvAnswers = .ok data :: ds → data.length = len.toNat → s.busyAnswers = idleAfter k ++ (idleAfter m ++ bs) →
    ∃ rx : Vector Byte 255,
      (∀ (j : Nat) (h : j < 255), rx[j] = data.getD j s.rxbuf[j]) ∧
      Runs (k + m + 5) s
        { s with
          cmds := ws, dev := dev, reg := reg, len := len, txbuf := #v[reg, s.txbuf[1]], xres := .ok, ph := .idle
          status := .ok, rxbuf := rx
          trace := pollEvents m ++ .tRecv dev len.toNat .ok data ::
            (pollEvents k ++ .tSend dev [reg] true .ok :: s.trace)
          sendAnswers := rs, recvAnswers := ds, busyAnswers := bs, transportResponds := ts
          draws := s.draws + 2 * (k + m) + 8 }

/-- R124: an RDREGS whose address frame fails. The events are that send and its poll: no T.Receive; STATUS is the
send's error; `RXBUF[0..LEN-1]` are undefined. -/
def Obligations.ShortCircuitRuns : Prop :=
  ∀ (s : State) (dev : DevAddr) (reg len : Byte) (ws : List Word) (k : Nat) (rs : List XferResult)
    (bs ts : List Bool),
    s.AtPort (encode (.rdregs dev reg len)) ws → s.busReady = true → len ≠ 0 →
    s.transportResponds = granted (k + 2) ++ ts →
    s.sendAnswers = .transferError :: rs → s.busyAnswers = idleAfter k ++ bs →
    ∃ rx : Vector Byte 255,
      (∀ (j : Nat) (h : j < 255), len.toNat ≤ j → rx[j] = s.rxbuf[j]) ∧
      Runs (k + 3) s
        { s with
          cmds := ws, dev := dev, reg := reg, len := len, txbuf := #v[reg, s.txbuf[1]], xres := .transferError
          ph := .idle, status := .transfer, rxbuf := rx
          trace := pollEvents k ++ .tSend dev [reg] true .transferError :: s.trace
          sendAnswers := rs, busyAnswers := bs, transportResponds := ts, draws := s.draws + 2 * k + 5 }

/-- R144: an RDID whose two transfers succeed: IDENT is the byte the peer answered. -/
def Obligations.RdidRuns : Prop :=
  ∀ (s : State) (ws : List Word) (k m : Nat) (b : Byte) (rs : List XferResult) (ds : List RecvAnswer)
    (bs ts : List Bool),
    s.AtPort (encode .rdid) ws → s.busReady = true → s.transportResponds = granted (k + m + 4) ++ ts →
    s.sendAnswers = .ok :: rs → s.recvAnswers = .ok [b] :: ds →
    s.busyAnswers = idleAfter k ++ (idleAfter m ++ bs) →
    Runs (k + m + 5) s
      { s with
        cmds := ws, dev := Config.devAddr, reg := Config.regDevid, len := 1
        txbuf := #v[Config.regDevid, s.txbuf[1]], xres := .ok, ph := .idle, status := .ok
        rxbuf := s.rxbuf.set 0 b, ident := b
        trace := pollEvents m ++ .tRecv Config.devAddr 1 .ok [b] ::
          (pollEvents k ++ .tSend Config.devAddr [Config.regDevid] true .ok :: s.trace)
        sendAnswers := rs, recvAnswers := ds, busyAnswers := bs, transportResponds := ts
        draws := s.draws + 2 * (k + m) + 8 }

/-- R146: an RDSMP whose two transfers succeed: the axes are the six bytes of the one receive, joined in pairs, low
byte first. -/
def Obligations.RdsmpRuns : Prop :=
  ∀ (s : State) (ws : List Word) (k m : Nat) (b0 b1 b2 b3 b4 b5 : Byte) (rs : List XferResult) (ds : List RecvAnswer)
    (bs ts : List Bool),
    s.AtPort (encode .rdsmp) ws → s.busReady = true → s.transportResponds = granted (k + m + 4) ++ ts →
    s.sendAnswers = .ok :: rs →
    s.recvAnswers = .ok [b0, b1, b2, b3, b4, b5] :: ds → s.busyAnswers = idleAfter k ++ (idleAfter m ++ bs) →
    Runs (k + m + 5) s
      { s with
        cmds := ws, dev := Config.devAddr, reg := Config.regDatax0, len := 6
        txbuf := #v[Config.regDatax0, s.txbuf[1]], xres := .ok, ph := .idle, status := .ok
        rxbuf := (((((s.rxbuf.set 0 b0).set 1 b1).set 2 b2).set 3 b3).set 4 b4).set 5 b5
        ax := b1 ++ b0, ay := b3 ++ b2, az := b5 ++ b4
        trace := pollEvents m ++ .tRecv Config.devAddr 6 .ok [b0, b1, b2, b3, b4, b5] ::
          (pollEvents k ++ .tSend Config.devAddr [Config.regDatax0] true .ok :: s.trace)
        sendAnswers := rs, recvAnswers := ds, busyAnswers := bs, transportResponds := ts
        draws := s.draws + 2 * (k + m) + 8 }

/-- R141: a SINIT from its command word to its return: three writes in order, each with its poll and its 10 ms delay,
whatever the three answers; INITERR and STATUS say what failed (R142). -/
def Obligations.SinitRuns : Prop :=
  ∀ (s : State) (ws : List Word) (k0 k1 k2 : Nat) (r0 r1 r2 : XferResult) (rs : List XferResult)
    (bs ts dl : List Bool),
    s.AtPort (encode .sinit) ws → s.busReady = true → s.transportResponds = granted (k0 + k1 + k2 + 6) ++ ts →
    s.delayCompletes = granted 3 ++ dl → s.sendAnswers = r0 :: r1 :: r2 :: rs →
    s.busyAnswers = idleAfter k0 ++ (idleAfter k1 ++ (idleAfter k2 ++ bs)) →
    ∃ m : BitVec 3,
      m.getLsbD 0 = (r0 != .ok) ∧ m.getLsbD 1 = (r1 != .ok) ∧ m.getLsbD 2 = (r2 != .ok) ∧
      Runs (k0 + k1 + k2 + 10) s
        { s with
          cmds := ws, dev := Config.devAddr, reg := Config.regDataFormat, val := 0x01, istep := 2
          txbuf := #v[Config.regDataFormat, 0x01], xres := r2, ph := .idle, initErr := m
          status := (if r0 = .ok ∧ r1 = .ok ∧ r2 = .ok then .ok else .transfer)
          trace := .delay 10 :: (pollEvents k2 ++ .tSend Config.devAddr [Config.regDataFormat, 0x01] false r2 ::
            .delay 10 :: (pollEvents k1 ++ .tSend Config.devAddr [Config.regPowerCtl, 0x08] false r1 ::
            .delay 10 :: (pollEvents k0 ++ .tSend Config.devAddr [Config.regPowerCtl, 0x00] false r0 :: s.trace)))
          sendAnswers := rs, busyAnswers := bs, transportResponds := ts, delayCompletes := dl
          draws := s.draws + 2 * (k0 + k1 + k2) + 15 }

/-! ## DECODE -/

/-- R147: DECODE joins the byte pairs of `RXBUF[0..5]`, high byte second, into AX, AY, AZ and returns OK, with no
event and with or without the bus. -/
def Obligations.DecodeWritesAxes : Prop :=
  ∀ s : State, s.opr = .none → s.ph = .idle →
    exec .decode s =
      .next { s with ax := s.rxbuf[1] ++ s.rxbuf[0], ay := s.rxbuf[3] ++ s.rxbuf[2], az := s.rxbuf[5] ++ s.rxbuf[4],
                     status := .ok }

/-- R148: the value of an axis from its two bytes, and that the bytes can be read back from it. -/
def Obligations.DecodeArithmetic : Prop :=
  (∀ low high : Byte, (decodeAxis low high).toInt =
    if high.toNat < 128 then 256 * (high.toNat : Int) + low.toNat
    else 256 * (high.toNat : Int) + low.toNat - 65536) ∧
  (∀ a : Axis, ∃ low high : Byte, decodeAxis low high = a) ∧
  (∀ l h l' h' : Byte, decodeAxis l h = decodeAxis l' h' → l = l' ∧ h = h')

/-- R148, S4: the axes DECODE writes depend on `RXBUF[0..5]` alone, whatever the rest of the two states. -/
def Obligations.DecodeIsPure : Prop :=
  ∀ s t s' t' : State, s.opr = .none → t.opr = .none →
    (∀ (j : Nat) (h : j < 6), s.rxbuf[j] = t.rxbuf[j]) → exec .decode s = .next s' → exec .decode t = .next t' →
    s'.ax = t'.ax ∧ s'.ay = t'.ay ∧ s'.az = t'.az

/-! ## Frames: what an instruction leaves as it is -/

/-- R121 "State written": a step of WRREG leaves every register but DEV, REG, VAL, TXBUF, XRES, STATUS, OPR and PH as
it is, every byte of RXBUF among them. -/
def Obligations.WrregFrame : Prop :=
  ∀ (s t : State) (dev : DevAddr) (reg val : Byte), exec (.wrreg dev reg val) s = .next t →
    t.lcs = s.lcs ∧ t.lcp = s.lcp ∧ t.busReady = s.busReady ∧ t.initErr = s.initErr ∧ t.istep = s.istep ∧
    t.len = s.len ∧ (∀ (j : Nat) (h : j < 255), t.rxbuf[j] = s.rxbuf[j]) ∧ t.ident = s.ident ∧ t.ax = s.ax ∧
    t.ay = s.ay ∧ t.az = s.az ∧ t.mismatchDue = s.mismatchDue ∧ t.issuer = s.issuer ∧ t.cmds = s.cmds ∧
    t.rst = s.rst ∧ t.initAnswers = s.initAnswers ∧ t.recvAnswers = s.recvAnswers ∧
    t.transportResponds = s.transportResponds ∧
    t.delayCompletes = s.delayCompletes ∧ t.sinkAccepts = s.sinkAccepts

/-- R122, R144, R146 "State written": a step of RDREGS, RDID or RDSMP leaves every register but DEV, REG, LEN,
TXBUF[0], XRES, RXBUF[0..LEN-1], STATUS, OPR and PH as it is, but for IDENT of RDID and the axes of RDSMP. A step
that begins the operation writes no byte of RXBUF. -/
def Obligations.ReadFrame : Prop :=
  ∀ (i : Instr) (s t : State), opReads i.op = true → exec i s = .next t →
    t.lcs = s.lcs ∧ t.lcp = s.lcp ∧ t.busReady = s.busReady ∧ t.initErr = s.initErr ∧ t.istep = s.istep ∧
    t.val = s.val ∧ t.txbuf[1] = s.txbuf[1] ∧
    (∀ (j : Nat) (h : j < 255), s.opr = .none ∨ s.len.toNat ≤ j → t.rxbuf[j] = s.rxbuf[j]) ∧
    (i.op ≠ .rdid → t.ident = s.ident) ∧
    (i.op ≠ .rdsmp → t.ax = s.ax ∧ t.ay = s.ay ∧ t.az = s.az) ∧
    t.mismatchDue = s.mismatchDue ∧ t.issuer = s.issuer ∧ t.cmds = s.cmds ∧ t.rst = s.rst ∧
    t.initAnswers = s.initAnswers ∧ t.transportResponds = s.transportResponds ∧
    t.delayCompletes = s.delayCompletes ∧ t.sinkAccepts = s.sinkAccepts

/-- R141 "State written": a step of SINIT leaves every register but INITERR, ISTEP, DEV, REG, VAL, TXBUF, XRES, STATUS,
OPR and PH as it is, every byte of RXBUF among them. -/
def Obligations.SinitFrame : Prop :=
  ∀ s t : State, exec .sinit s = .next t →
    t.lcs = s.lcs ∧ t.lcp = s.lcp ∧ t.busReady = s.busReady ∧ t.len = s.len ∧
    (∀ (j : Nat) (h : j < 255), t.rxbuf[j] = s.rxbuf[j]) ∧ t.ident = s.ident ∧ t.ax = s.ax ∧ t.ay = s.ay ∧
    t.az = s.az ∧ t.mismatchDue = s.mismatchDue ∧ t.issuer = s.issuer ∧ t.cmds = s.cmds ∧ t.rst = s.rst ∧
    t.initAnswers = s.initAnswers ∧ t.recvAnswers = s.recvAnswers ∧ t.transportResponds = s.transportResponds ∧
    t.delayCompletes = s.delayCompletes ∧ t.sinkAccepts = s.sinkAccepts

/-- R106 and R147 "State written": BINIT leaves every register but BUS_READY and STATUS as it is, DECODE every register
but AX, AY, AZ and STATUS, every byte of both buffers among them; PH stays IDLE (R23; the state has it so between
operations). DECODE has no event. -/
def Obligations.BinitAndDecodeFrame : Prop :=
  ∀ (i : Instr) (s t : State), i = .binit ∨ i = .decode → exec i s = .next t →
    t.lcs = s.lcs ∧ t.lcp = s.lcp ∧ t.initErr = s.initErr ∧ t.istep = s.istep ∧ t.xres = s.xres ∧ t.dev = s.dev ∧
    t.reg = s.reg ∧ t.val = s.val ∧ t.len = s.len ∧ (∀ (j : Nat) (h : j < 2), t.txbuf[j] = s.txbuf[j]) ∧
    (∀ (j : Nat) (h : j < 255), t.rxbuf[j] = s.rxbuf[j]) ∧ t.ident = s.ident ∧ t.opr = s.opr ∧
    (s.ph = .idle → t.ph = .idle) ∧
    (i = .binit → t.ax = s.ax ∧ t.ay = s.ay ∧ t.az = s.az) ∧
    (i = .decode → t.busReady = s.busReady ∧ t.trace = s.trace ∧ t.initAnswers = s.initAnswers ∧ t.draws = s.draws) ∧
    t.mismatchDue = s.mismatchDue ∧ t.issuer = s.issuer ∧ t.cmds = s.cmds ∧ t.rst = s.rst ∧
    t.sendAnswers = s.sendAnswers ∧ t.recvAnswers = s.recvAnswers ∧ t.busyAnswers = s.busyAnswers ∧
    t.transportResponds = s.transportResponds ∧
    t.delayCompletes = s.delayCompletes ∧ t.sinkAccepts = s.sinkAccepts

/-- R24: STATUS is written by an operation only as its last step: while it is in progress afterwards STATUS is what it
was. -/
def Obligations.StatusWrittenAtReturn : Prop :=
  ∀ (i : Instr) (s t : State), exec i s = .next t → t.opr ≠ .none → t.status = s.status

/-! ## Rules of the whole machine -/

/-- R8, R109: the step the block takes with no reset, once it is answered (`runStep`), has at most one event. A step
with no event is taken. A step with an event is taken when the environment responds to its request, and until then the
block is stuck there: nothing changes but the askings used up (log entry 4). -/
def Obligations.OneEventPerStep : Prop :=
  ∀ s t : State, s.rstSample = false → runStep s.sampled = .next t →
    (t.trace = s.trace ∧ step s = .next t) ∨
    ∃ e, t.trace = e :: s.trace ∧
      (s.responds e = true → step s = .next (t.asked e)) ∧
      (s.responds e = false → step s = .next (s.sampled.asked e))

/-- R108: the seven operations never emit. -/
def Obligations.OperationsNeverEmit : Prop :=
  ∀ (i : Instr) (s t : State) (r : Report), exec i s = .next t → t.trace ≠ .emit r :: s.trace

/-- R22: `BUS_READY` is set only by a BINIT whose T.Init returns OK, and cleared only by reset. -/
def Obligations.BusReadyOnlyByBinit : Prop :=
  ∀ s t : State, s.rstSample = false → step s = .next t →
    (s.busReady = true → t.busReady = true) ∧
    (s.busReady = false → t.busReady = true → t.trace = .tInit 100000 .ok :: s.trace)

/-- R21: `LCS` only moves forward: 0 to 1 or 5, 1 to 2, 2 to 3, 3 to 4; there is no exit from 4 or 5 but reset. -/
def Obligations.LcsMovesForward : Prop :=
  ∀ s t : State, s.rstSample = false → step s = .next t → t.lcs ≠ s.lcs →
    (s.lcs = .uninitialized ∧ (t.lcs = .busReady ∨ t.lcs = .halted)) ∨
    (s.lcs = .busReady ∧ t.lcs = .identityChecked) ∨ (s.lcs = .identityChecked ∧ t.lcs = .measurementActive) ∨
    (s.lcs = .measurementActive ∧ t.lcs = .sampling)

/-- R208: on a wedged bus the poll goes on: for every `k`, after `k` polls that answer true the operation is where it
was and has returned no status (each poll responded to: the premise TransportResponds of R109). -/
def Obligations.WedgedBusHangs : Prop :=
  ∀ (k : Nat) (s : State) (bs ts : List Bool), s.rst = [] → opHasPhase s.opr s.ph = true → s.ph.polls = true →
    s.transportResponds = granted k ++ ts → s.busyAnswers = List.replicate k true ++ bs →
    Runs k s
      { s with
        trace := List.replicate k (.tBusy true) ++ s.trace
        busyAnswers := bs, transportResponds := ts, draws := s.draws + 2 * k }

/-! ## The Loop Controller (43_sampling_loop.md) -/

/-- R171 (that LCP is advanced in the step that issues an operation is log entry 8, here and below): from
Uninitialized: the start message, BINIT, then BusReady, or the failure report and Halted. Where a step has an event it
is taken once the environment responds (R109; `onceAnswered`, which OneEventPerStep says whole), here and below. -/
def Obligations.FromUninitialized : Prop :=
  ∀ s : State, s.LcTurn → s.lcs = .uninitialized →
    (s.lcp = 0 → step s = onceAnswered s.sampled
        (.next { s.sampled with lcp := 1, trace := .emit .initStart :: s.trace })) ∧
    (s.lcp = 1 → step s = onceAnswered s.sampled (exec .binit { s.sampled with lcp := 2 })) ∧
    (s.lcp = 2 → s.status = .ok → step s = .next { s.sampled with lcs := .busReady, lcp := 0 }) ∧
    (s.lcp = 2 → s.status ≠ .ok →
      step s = onceAnswered s.sampled
        (.next { s.sampled with lcs := .halted, lcp := 0, trace := .emit (.initFail s.status) :: s.trace }))

/-- R172: from BusReady: RDID, its report (the mismatch warning an Emit of its own: log entry 9), then
IdentityChecked, on every path. -/
def Obligations.FromBusReady : Prop :=
  ∀ s : State, s.LcTurn → s.lcs = .busReady →
    (s.lcp = 0 → step s = exec .rdid { s.sampled with lcp := 1 }) ∧
    (s.lcp = 1 → s.mismatchDue = false → s.status = .ok → s.ident = 0xE5 →
      step s = onceAnswered s.sampled
        (.next { s.sampled with lcp := 2, trace := .emit (.ident s.ident) :: s.trace })) ∧
    (s.lcp = 1 → s.mismatchDue = false → s.status = .ok → s.ident ≠ 0xE5 →
      step s = onceAnswered s.sampled
        (.next { s.sampled with mismatchDue := true, trace := .emit (.ident s.ident) :: s.trace })) ∧
    (s.lcp = 1 → s.mismatchDue = true →
      step s = onceAnswered s.sampled
        (.next { s.sampled with lcp := 2, mismatchDue := false, trace := .emit .idMismatch :: s.trace })) ∧
    (s.lcp = 1 → s.mismatchDue = false → s.status ≠ .ok →
      step s = onceAnswered s.sampled
        (.next { s.sampled with lcp := 2, trace := .emit (.idReadFail s.status) :: s.trace })) ∧
    (s.lcp = 2 → step s = .next { s.sampled with lcs := .identityChecked, lcp := 0 })

/-- R173: from IdentityChecked: SINIT, the failure report when a write failed, the completion message, then
MeasurementActive, on every path. -/
def Obligations.FromIdentityChecked : Prop :=
  ∀ s : State, s.LcTurn → s.lcs = .identityChecked →
    (s.lcp = 0 → step s = exec .sinit { s.sampled with lcp := 1 }) ∧
    (s.lcp = 1 → s.initErr ≠ 0#3 →
      step s = onceAnswered s.sampled
        (.next { s.sampled with lcp := 2, trace := .emit (.initWriteFail s.initErr) :: s.trace })) ∧
    (s.lcp = 1 → s.initErr = 0#3 → step s = .next { s.sampled with lcp := 2 }) ∧
    (s.lcp = 2 → step s = onceAnswered s.sampled
        (.next { s.sampled with lcp := 3, trace := .emit .initDone :: s.trace })) ∧
    (s.lcp = 3 → step s = .next { s.sampled with lcs := .measurementActive, lcp := 0 })

/-- R174: from MeasurementActive: Sampling, unconditionally and with no event. -/
def Obligations.FromMeasurementActive : Prop :=
  ∀ s : State, s.LcTurn → s.lcs = .measurementActive → s.lcp = 0 →
    step s = .next { s.sampled with lcs := .sampling, lcp := 0 }

/-- R175, R176: the sampling cycle: RDSMP, the sample in the order x, y, z or in its place the failure, 500 ms, and
again. -/
def Obligations.SamplingCycle : Prop :=
  ∀ s : State, s.LcTurn → s.lcs = .sampling →
    (s.lcp = 0 → step s = exec .rdsmp { s.sampled with lcp := 1 }) ∧
    (s.lcp = 1 → s.status = .ok →
      step s = onceAnswered s.sampled
        (.next { s.sampled with lcp := 2, trace := .emit (.sample s.ax s.ay s.az) :: s.trace })) ∧
    (s.lcp = 1 → s.status ≠ .ok →
      step s = onceAnswered s.sampled
        (.next { s.sampled with lcp := 2, trace := .emit (.sampleFail s.status) :: s.trace })) ∧
    (s.lcp = 2 → step s = onceAnswered s.sampled
        (.next { s.sampled with lcp := 3, trace := .delay 500 :: s.trace })) ∧
    (s.lcp = 3 → step s = .next { s.sampled with lcp := 0 })

/-- R178: in Halted the block issues nothing and changes nothing, `BUS_READY` is 0, and Halted is the only state of
the assembled block in which a step changes nothing. That the machine goes on stepping in Halted, each step answering
the same state but for the reset sample used up, is the model's choice (log entry 14; the spec's Halted has no step,
D6). A step that waits for a response uses up an asking, so it does not count as one that changes nothing (log entry
4). -/
def Obligations.HaltedIsFinal : Prop :=
  (∀ s : State, s.LcTurn → s.lcs = .halted → step s = .next s.sampled) ∧
  (∀ s : State, s.LcInv → s.lcs = .halted → s.busReady = false ∧ s.opr = .none) ∧
  (∀ s : State, s.Inv → s.LcInv → s.rstSample = false → step s = .next s.sampled → s.lcs = .halted)

/-! ## Invariants -/

/-- Every invariant holds of the machine after reset. -/
def Obligations.InvariantsAtReset : Prop :=
  State.reset.Inv ∧ State.reset.LcInv ∧ State.reset.BusInv ∧ State.reset.HoldInv ∧ State.reset.InitInv ∧
  State.reset.SettleInv ∧ State.reset.ReportInv ∧ State.reset.trace.all Event.wellFormed = true ∧
  reportStage State.reset.trace = some State.reset.reported

/-- From every state whose control registers hold values the rules write, a step answers a next state and that state
is such a one again: the machine never stops (R205, R208; the fault `noRule` of log entry 12 is not reached). It does
not say that a request is answered: a step in which the block waits for a response is a next state too (R109, log
entry 4), and so is the step of Halted (log entry 14). -/
def Obligations.StepKeepsInvAndNeverStops : Prop := ∀ s : State, s.Inv → ∃ t, step s = .next t ∧ t.Inv

/-- R203: in the assembled block `E_NOT_READY` and `E_ILLEGAL` do not occur, and each Loop Controller state finds only
the status codes its rule names. -/
def Obligations.StepKeepsLcInv : Prop :=
  (∀ s t : State, s.Inv → s.LcInv → step s = .next t → t.LcInv) ∧
  (∀ s : State, s.LcInv → s.status ≠ .notReady ∧ s.status ≠ .illegal)

/-- R234: in every trace a `TBusy=false` stands between any two transfers. -/
def Obligations.BusIdleBetweenTransfers : Prop :=
  ∀ s t : State, s.Inv → s.BusInv → step s = .next t → t.BusInv

/-- R237, R240: a receive is issued only while the bus is held by the address frame accepted for the same device, and
between the two phases nothing but polls is issued. -/
def Obligations.ReadsPairedOnHeldBus : Prop :=
  ∀ s t : State, s.Inv → s.HoldInv → step s = .next t → t.HoldInv

/-- R100: the bus is used only after a T.Init that returned OK, and no T.Init follows one. -/
def Obligations.NoBusUseBeforeInit : Prop :=
  ∀ s t : State, s.Inv → s.InitInv → step s = .next t → t.InitInv

/-- R143: in the assembled block every configuration write is followed by `Delay(10)` before the next transfer. -/
def Obligations.WritesSettleUnderController : Prop :=
  ∀ s t : State, s.Inv → s.LcInv → s.SettleInv → step s = .next t → t.SettleInv

/-- R239: in the assembled block every sample reported is the decoding of the six bytes of the newest transfer, a
receive that succeeded, and every identity reported is its one byte. -/
def Obligations.ReportsFaithfulToBytes : Prop :=
  ∀ s t : State, s.Inv → s.LcInv → s.ReportInv → step s = .next t → t.ReportInv

/-- R179: in the assembled block the reports appear in the order of R179 and no other. -/
def Obligations.ReportsInOrder : Prop :=
  ∀ s t : State, s.Inv → s.LcInv → reportStage s.trace = some s.reported → step s = .next t →
    reportStage t.trace = some t.reported

/-- R238, R245: no receive of zero bytes is ever issued, a receive delivers all its bytes or none, a frame has two
bytes and a stop or one byte and none, and the only delays are 10 and 500 ms. -/
def Obligations.EventsWellFormed : Prop :=
  ∀ s t : State, s.Inv → s.trace.all Event.wellFormed = true → step s = .next t →
    t.trace.all Event.wellFormed = true
end

