-- ==== Sys2Proof/Laws/Encoding.lean ====
section
/-! SUPPORT. The fields of a packed command word, and packing the fields of a word (30_encoding.md R71). -/

namespace Sys2Proof

/-- Joining two vectors is adding their numbers in place. -/
theorem toNat_append_add {m n : Nat} (x : BitVec m) (y : BitVec n) :
    (x ++ y).toNat = x.toNat * 2 ^ n + y.toNat := by
  rw [BitVec.toNat_append, ← Nat.shiftLeft_add_eq_or_of_lt y.isLt, Nat.shiftLeft_eq]

/-- The number a packed word is (R71). -/
theorem packWord_toNat (op : Op) (dev : DevAddr) (reg imm : Byte) :
    (packWord op dev reg imm).toNat =
      op.code.toNat * 2 ^ 24 + dev.toNat * 2 ^ 16 + reg.toNat * 2 ^ 8 + imm.toNat := by
  simp only [packWord, toNat_append_add, BitVec.toNat_ofNat]
  omega

@[simp] theorem zero5Field_packWord (op : Op) (dev : DevAddr) (reg imm : Byte) :
    zero5Field (packWord op dev reg imm) = 0 := by
  have := op.code.isLt; have := dev.isLt; have := reg.isLt; have := imm.isLt
  apply BitVec.eq_of_toNat_eq
  simp only [zero5Field, BitVec.extractLsb'_toNat, packWord_toNat, Nat.shiftRight_eq_div_pow,
    BitVec.ofNat_eq_ofNat, BitVec.toNat_ofNat]
  omega

@[simp] theorem opField_packWord (op : Op) (dev : DevAddr) (reg imm : Byte) :
    opField (packWord op dev reg imm) = op.code := by
  have := op.code.isLt; have := dev.isLt; have := reg.isLt; have := imm.isLt
  apply BitVec.eq_of_toNat_eq
  simp only [opField, BitVec.extractLsb'_toNat, packWord_toNat, Nat.shiftRight_eq_div_pow]
  omega

@[simp] theorem zero1Field_packWord (op : Op) (dev : DevAddr) (reg imm : Byte) :
    zero1Field (packWord op dev reg imm) = 0 := by
  have := op.code.isLt; have := dev.isLt; have := reg.isLt; have := imm.isLt
  apply BitVec.eq_of_toNat_eq
  simp only [zero1Field, BitVec.extractLsb'_toNat, packWord_toNat, Nat.shiftRight_eq_div_pow,
    BitVec.ofNat_eq_ofNat, BitVec.toNat_ofNat]
  omega

@[simp] theorem devField_packWord (op : Op) (dev : DevAddr) (reg imm : Byte) :
    devField (packWord op dev reg imm) = dev := by
  have := op.code.isLt; have := dev.isLt; have := reg.isLt; have := imm.isLt
  apply BitVec.eq_of_toNat_eq
  simp only [devField, BitVec.extractLsb'_toNat, packWord_toNat, Nat.shiftRight_eq_div_pow]
  omega

@[simp] theorem regField_packWord (op : Op) (dev : DevAddr) (reg imm : Byte) :
    regField (packWord op dev reg imm) = reg := by
  have := op.code.isLt; have := dev.isLt; have := reg.isLt; have := imm.isLt
  apply BitVec.eq_of_toNat_eq
  simp only [regField, BitVec.extractLsb'_toNat, packWord_toNat, Nat.shiftRight_eq_div_pow]
  omega

@[simp] theorem immField_packWord (op : Op) (dev : DevAddr) (reg imm : Byte) :
    immField (packWord op dev reg imm) = imm := by
  have := op.code.isLt; have := dev.isLt; have := reg.isLt; have := imm.isLt
  apply BitVec.eq_of_toNat_eq
  simp only [immField, BitVec.extractLsb'_toNat, packWord_toNat, Nat.shiftRight_eq_div_pow]
  omega

/-- The code of an operation read from a code is that code (R72). -/
@[simp] theorem code_ofCode (c : BitVec 3) : (Op.ofCode c).code = c := by
  revert c; decide

/-- The operation of an operation's code is the operation (R72). -/
@[simp] theorem ofCode_code (op : Op) : Op.ofCode op.code = op := by
  cases op <;> decide

/-- A word whose reserved bits are zero is packed from its own fields (R71). -/
theorem packWord_fields (w : Word) (h5 : zero5Field w = 0) (h1 : zero1Field w = 0) :
    packWord (Op.ofCode (opField w)) (devField w) (regField w) (immField w) = w := by
  have hw := w.isLt
  have h5' := congrArg BitVec.toNat h5
  have h1' := congrArg BitVec.toNat h1
  simp only [zero5Field, zero1Field, BitVec.extractLsb'_toNat, Nat.shiftRight_eq_div_pow,
    BitVec.ofNat_eq_ofNat, BitVec.toNat_ofNat] at h5' h1'
  apply BitVec.eq_of_toNat_eq
  simp only [packWord_toNat, code_ofCode, opField, devField, regField, immField, BitVec.extractLsb'_toNat,
    Nat.shiftRight_eq_div_pow, Nat.pow_zero, Nat.div_one]
  omega

/-- The number of a command word from its fields (R71). -/
theorem word_toNat (w : Word) :
    w.toNat = (zero5Field w).toNat * 2 ^ 27 + (opField w).toNat * 2 ^ 24 + (zero1Field w).toNat * 2 ^ 23 +
      (devField w).toNat * 2 ^ 16 + (regField w).toNat * 2 ^ 8 + (immField w).toNat := by
  have hw := w.isLt
  simp only [zero5Field, zero1Field, opField, devField, regField, immField, BitVec.extractLsb'_toNat,
    Nat.shiftRight_eq_div_pow]
  omega

/-- The fields of a word with given reserved bits, operation and operands, as one number. -/
theorem fields_zero_iff (w : Word) (c : BitVec 3) :
    w.toNat / 2 ^ 23 = c.toNat * 2 ↔ zero5Field w = 0 ∧ zero1Field w = 0 ∧ opField w = c := by
  have hw := word_toNat w
  have h5 := (zero5Field w).isLt; have h1 := (zero1Field w).isLt; have ho := (opField w).isLt
  have hd := (devField w).isLt; have hr := (regField w).isLt; have hi := (immField w).isLt
  have hc := c.isLt
  simp only [← BitVec.toNat_inj, BitVec.ofNat_eq_ofNat, BitVec.toNat_ofNat]
  constructor
  · intro h; omega
  · rintro ⟨hz5, hz1, hop⟩; omega

/-- A word whose operand fields are zero, as one number. -/
theorem operands_zero_iff (w : Word) (c : BitVec 3) :
    w.toNat = c.toNat * 2 ^ 24 ↔
      zero5Field w = 0 ∧ zero1Field w = 0 ∧ opField w = c ∧ devField w = 0 ∧ regField w = 0 ∧ immField w = 0 := by
  have hw := word_toNat w
  have h5 := (zero5Field w).isLt; have h1 := (zero1Field w).isLt; have ho := (opField w).isLt
  have hd := (devField w).isLt; have hr := (regField w).isLt; have hi := (immField w).isLt
  have hc := c.isLt
  simp only [← BitVec.toNat_inj, BitVec.ofNat_eq_ofNat, BitVec.toNat_ofNat]
  constructor
  · intro h; omega
  · rintro ⟨hz5, hz1, hop, hdev, hreg, himm⟩
    rw [hw, hz5, hz1, hop, hdev, hreg, himm]
    omega

/-- The full mask compares the whole word (R73). -/
theorem and_fullMask (w : Word) : w &&& 0xFFFFFFFF#32 = w := by
  have h : 0xFFFFFFFF#32 = BitVec.allOnes 32 := by decide
  rw [h, BitVec.and_allOnes]

/-- The operand mask of R73 keeps bits [31:23]. -/
theorem and_operandMask_toNat (w : Word) : (w &&& 0xFF800000#32).toNat = w.toNat / 2 ^ 23 * 2 ^ 23 := by
  have h : w &&& 0xFF800000#32 = (w >>> 23) <<< 23 := by
    ext i hi
    simp only [BitVec.getElem_and, BitVec.getElem_shiftLeft]
    interval_cases i <;> simp
  have := w.isLt
  rw [h]
  simp only [BitVec.toNat_shiftLeft, BitVec.toNat_ushiftRight, Nat.shiftLeft_eq, Nat.shiftRight_eq_div_pow]
  omega

/-- A row with the full mask selects the words with its operation and zero operands (R73). -/
theorem selects_fullMask (o : Op) (w v : Word) (hv : v.toNat = o.code.toNat * 2 ^ 24) :
    (OpcodeRow.mk o v 0xFFFFFFFF#32).selects w = true ↔
      zero5Field w = 0 ∧ zero1Field w = 0 ∧ opField w = o.code ∧ devField w = 0 ∧ regField w = 0 ∧ immField w = 0 := by
  rw [← operands_zero_iff, ← hv, OpcodeRow.selects, and_fullMask, beq_iff_eq, BitVec.toNat_inj]

/-- A row with the operand mask selects the words with its operation (R73). -/
theorem selects_operandMask (o : Op) (w v : Word) (hv : v.toNat = o.code.toNat * 2 ^ 24) :
    (OpcodeRow.mk o v 0xFF800000#32).selects w = true ↔
      zero5Field w = 0 ∧ zero1Field w = 0 ∧ opField w = o.code := by
  rw [← fields_zero_iff, OpcodeRow.selects, beq_iff_eq, ← BitVec.toNat_inj, and_operandMask_toNat, hv]
  constructor <;> intro <;> omega

/-- What a row of the table selects, by fields (R73). -/
theorem opcodeTable_selects (w : Word) (r : OpcodeRow) (hr : r ∈ opcodeTable) :
    r.selects w = true ↔
      zero5Field w = 0 ∧ zero1Field w = 0 ∧ opField w = r.op.code ∧
        (r.op ≠ .wrreg → r.op ≠ .rdregs → devField w = 0 ∧ regField w = 0 ∧ immField w = 0) := by
  simp only [opcodeTable, List.mem_cons, List.not_mem_nil, or_false] at hr
  rcases hr with rfl | rfl | rfl | rfl | rfl | rfl | rfl
  · rw [selects_fullMask _ _ _ (by decide)]; simp
  · rw [selects_operandMask _ _ _ (by decide)]; simp
  · rw [selects_operandMask _ _ _ (by decide)]; simp
  · rw [selects_fullMask _ _ _ (by decide)]; simp
  · rw [selects_fullMask _ _ _ (by decide)]; simp
  · rw [selects_fullMask _ _ _ (by decide)]; simp
  · rw [selects_fullMask _ _ _ (by decide)]; simp

/-- Two operations with one code are one (R72). -/
theorem code_inj {a b : Op} (h : a.code = b.code) : a = b := by
  rw [← ofCode_code a, h, ofCode_code]

/-- What it takes for an operation with no operands to decode (R73). -/
theorem withoutOperands_ok {w : Word} {i j : Instr} (h : withoutOperands w i = .ok j) :
    devField w = 0 ∧ regField w = 0 ∧ immField w = 0 ∧ i = j := by
  unfold withoutOperands at h
  split at h <;> simp_all

end Sys2Proof
end

