-- ==== Sys2Proof/Laws/State.lean ====
section
/-! SUPPORT. One lemma per field per update of the state: what the update leaves in the field. -/

namespace Sys2Proof.Machine

variable (s : State)

/-! ## log -/

@[simp] theorem State.log_lcs (e : Event) : (s.log e).lcs = s.lcs := rfl
@[simp] theorem State.log_lcp (e : Event) : (s.log e).lcp = s.lcp := rfl
@[simp] theorem State.log_busReady (e : Event) : (s.log e).busReady = s.busReady := rfl
@[simp] theorem State.log_opr (e : Event) : (s.log e).opr = s.opr := rfl
@[simp] theorem State.log_ph (e : Event) : (s.log e).ph = s.ph := rfl
@[simp] theorem State.log_status (e : Event) : (s.log e).status = s.status := rfl
@[simp] theorem State.log_initErr (e : Event) : (s.log e).initErr = s.initErr := rfl
@[simp] theorem State.log_istep (e : Event) : (s.log e).istep = s.istep := rfl
@[simp] theorem State.log_xres (e : Event) : (s.log e).xres = s.xres := rfl
@[simp] theorem State.log_dev (e : Event) : (s.log e).dev = s.dev := rfl
@[simp] theorem State.log_reg (e : Event) : (s.log e).reg = s.reg := rfl
@[simp] theorem State.log_val (e : Event) : (s.log e).val = s.val := rfl
@[simp] theorem State.log_len (e : Event) : (s.log e).len = s.len := rfl
@[simp] theorem State.log_txbuf (e : Event) : (s.log e).txbuf = s.txbuf := rfl
@[simp] theorem State.log_rxbuf (e : Event) : (s.log e).rxbuf = s.rxbuf := rfl
@[simp] theorem State.log_ident (e : Event) : (s.log e).ident = s.ident := rfl
@[simp] theorem State.log_ax (e : Event) : (s.log e).ax = s.ax := rfl
@[simp] theorem State.log_ay (e : Event) : (s.log e).ay = s.ay := rfl
@[simp] theorem State.log_az (e : Event) : (s.log e).az = s.az := rfl
@[simp] theorem State.log_mismatchDue (e : Event) : (s.log e).mismatchDue = s.mismatchDue := rfl
@[simp] theorem State.log_trace (e : Event) : (s.log e).trace = e :: s.trace := rfl
@[simp] theorem State.log_initAnswers (e : Event) : (s.log e).initAnswers = s.initAnswers := rfl
@[simp] theorem State.log_sendAnswers (e : Event) : (s.log e).sendAnswers = s.sendAnswers := rfl
@[simp] theorem State.log_recvAnswers (e : Event) : (s.log e).recvAnswers = s.recvAnswers := rfl
@[simp] theorem State.log_busyAnswers (e : Event) : (s.log e).busyAnswers = s.busyAnswers := rfl
@[simp] theorem State.log_transportResponds (e : Event) : (s.log e).transportResponds = s.transportResponds := rfl
@[simp] theorem State.log_delayCompletes (e : Event) : (s.log e).delayCompletes = s.delayCompletes := rfl
@[simp] theorem State.log_sinkAccepts (e : Event) : (s.log e).sinkAccepts = s.sinkAccepts := rfl
@[simp] theorem State.log_draws (e : Event) : (s.log e).draws = s.draws := rfl
@[simp] theorem State.log_issuer (e : Event) : (s.log e).issuer = s.issuer := rfl
@[simp] theorem State.log_cmds (e : Event) : (s.log e).cmds = s.cmds := rfl
@[simp] theorem State.log_rst (e : Event) : (s.log e).rst = s.rst := rfl

/-! ## tInit -/

@[simp] theorem State.tInit_lcs (hz : Nat) : (s.tInit hz).lcs = s.lcs := rfl
@[simp] theorem State.tInit_lcp (hz : Nat) : (s.tInit hz).lcp = s.lcp := rfl
@[simp] theorem State.tInit_busReady (hz : Nat) : (s.tInit hz).busReady = s.busReady := rfl
@[simp] theorem State.tInit_opr (hz : Nat) : (s.tInit hz).opr = s.opr := rfl
@[simp] theorem State.tInit_ph (hz : Nat) : (s.tInit hz).ph = s.ph := rfl
@[simp] theorem State.tInit_status (hz : Nat) : (s.tInit hz).status = s.status := rfl
@[simp] theorem State.tInit_initErr (hz : Nat) : (s.tInit hz).initErr = s.initErr := rfl
@[simp] theorem State.tInit_istep (hz : Nat) : (s.tInit hz).istep = s.istep := rfl
@[simp] theorem State.tInit_xres (hz : Nat) : (s.tInit hz).xres = s.xres := rfl
@[simp] theorem State.tInit_dev (hz : Nat) : (s.tInit hz).dev = s.dev := rfl
@[simp] theorem State.tInit_reg (hz : Nat) : (s.tInit hz).reg = s.reg := rfl
@[simp] theorem State.tInit_val (hz : Nat) : (s.tInit hz).val = s.val := rfl
@[simp] theorem State.tInit_len (hz : Nat) : (s.tInit hz).len = s.len := rfl
@[simp] theorem State.tInit_txbuf (hz : Nat) : (s.tInit hz).txbuf = s.txbuf := rfl
@[simp] theorem State.tInit_rxbuf (hz : Nat) : (s.tInit hz).rxbuf = s.rxbuf := rfl
@[simp] theorem State.tInit_ident (hz : Nat) : (s.tInit hz).ident = s.ident := rfl
@[simp] theorem State.tInit_ax (hz : Nat) : (s.tInit hz).ax = s.ax := rfl
@[simp] theorem State.tInit_ay (hz : Nat) : (s.tInit hz).ay = s.ay := rfl
@[simp] theorem State.tInit_az (hz : Nat) : (s.tInit hz).az = s.az := rfl
@[simp] theorem State.tInit_mismatchDue (hz : Nat) : (s.tInit hz).mismatchDue = s.mismatchDue := rfl
@[simp] theorem State.tInit_trace (hz : Nat) : (s.tInit hz).trace = .tInit hz s.initAnswer :: s.trace := rfl
@[simp] theorem State.tInit_initAnswers (hz : Nat) : (s.tInit hz).initAnswers = s.initAnswers.tail := rfl
@[simp] theorem State.tInit_sendAnswers (hz : Nat) : (s.tInit hz).sendAnswers = s.sendAnswers := rfl
@[simp] theorem State.tInit_recvAnswers (hz : Nat) : (s.tInit hz).recvAnswers = s.recvAnswers := rfl
@[simp] theorem State.tInit_busyAnswers (hz : Nat) : (s.tInit hz).busyAnswers = s.busyAnswers := rfl
@[simp] theorem State.tInit_transportResponds (hz : Nat) : (s.tInit hz).transportResponds = s.transportResponds := rfl
@[simp] theorem State.tInit_delayCompletes (hz : Nat) : (s.tInit hz).delayCompletes = s.delayCompletes := rfl
@[simp] theorem State.tInit_sinkAccepts (hz : Nat) : (s.tInit hz).sinkAccepts = s.sinkAccepts := rfl
@[simp] theorem State.tInit_draws (hz : Nat) : (s.tInit hz).draws = s.draws + 1 := rfl
@[simp] theorem State.tInit_issuer (hz : Nat) : (s.tInit hz).issuer = s.issuer := rfl
@[simp] theorem State.tInit_cmds (hz : Nat) : (s.tInit hz).cmds = s.cmds := rfl
@[simp] theorem State.tInit_rst (hz : Nat) : (s.tInit hz).rst = s.rst := rfl

/-! ## tSend -/

@[simp] theorem State.tSend_lcs (bs : List Byte) (d : DevAddr) (ns : Bool) : (s.tSend bs d ns).lcs = s.lcs := rfl
@[simp] theorem State.tSend_lcp (bs : List Byte) (d : DevAddr) (ns : Bool) : (s.tSend bs d ns).lcp = s.lcp := rfl
@[simp] theorem State.tSend_busReady (bs : List Byte) (d : DevAddr) (ns : Bool) : (s.tSend bs d ns).busReady = s.busReady := rfl
@[simp] theorem State.tSend_opr (bs : List Byte) (d : DevAddr) (ns : Bool) : (s.tSend bs d ns).opr = s.opr := rfl
@[simp] theorem State.tSend_ph (bs : List Byte) (d : DevAddr) (ns : Bool) : (s.tSend bs d ns).ph = s.ph := rfl
@[simp] theorem State.tSend_status (bs : List Byte) (d : DevAddr) (ns : Bool) : (s.tSend bs d ns).status = s.status := rfl
@[simp] theorem State.tSend_initErr (bs : List Byte) (d : DevAddr) (ns : Bool) : (s.tSend bs d ns).initErr = s.initErr := rfl
@[simp] theorem State.tSend_istep (bs : List Byte) (d : DevAddr) (ns : Bool) : (s.tSend bs d ns).istep = s.istep := rfl
@[simp] theorem State.tSend_xres (bs : List Byte) (d : DevAddr) (ns : Bool) : (s.tSend bs d ns).xres = s.sendAnswer := rfl
@[simp] theorem State.tSend_dev (bs : List Byte) (d : DevAddr) (ns : Bool) : (s.tSend bs d ns).dev = s.dev := rfl
@[simp] theorem State.tSend_reg (bs : List Byte) (d : DevAddr) (ns : Bool) : (s.tSend bs d ns).reg = s.reg := rfl
@[simp] theorem State.tSend_val (bs : List Byte) (d : DevAddr) (ns : Bool) : (s.tSend bs d ns).val = s.val := rfl
@[simp] theorem State.tSend_len (bs : List Byte) (d : DevAddr) (ns : Bool) : (s.tSend bs d ns).len = s.len := rfl
@[simp] theorem State.tSend_txbuf (bs : List Byte) (d : DevAddr) (ns : Bool) : (s.tSend bs d ns).txbuf = s.txbuf := rfl
@[simp] theorem State.tSend_rxbuf (bs : List Byte) (d : DevAddr) (ns : Bool) : (s.tSend bs d ns).rxbuf = s.rxbuf := rfl
@[simp] theorem State.tSend_ident (bs : List Byte) (d : DevAddr) (ns : Bool) : (s.tSend bs d ns).ident = s.ident := rfl
@[simp] theorem State.tSend_ax (bs : List Byte) (d : DevAddr) (ns : Bool) : (s.tSend bs d ns).ax = s.ax := rfl
@[simp] theorem State.tSend_ay (bs : List Byte) (d : DevAddr) (ns : Bool) : (s.tSend bs d ns).ay = s.ay := rfl
@[simp] theorem State.tSend_az (bs : List Byte) (d : DevAddr) (ns : Bool) : (s.tSend bs d ns).az = s.az := rfl
@[simp] theorem State.tSend_mismatchDue (bs : List Byte) (d : DevAddr) (ns : Bool) : (s.tSend bs d ns).mismatchDue = s.mismatchDue := rfl
@[simp] theorem State.tSend_trace (bs : List Byte) (d : DevAddr) (ns : Bool) : (s.tSend bs d ns).trace = .tSend d bs ns s.sendAnswer :: s.trace := rfl
@[simp] theorem State.tSend_initAnswers (bs : List Byte) (d : DevAddr) (ns : Bool) : (s.tSend bs d ns).initAnswers = s.initAnswers := rfl
@[simp] theorem State.tSend_sendAnswers (bs : List Byte) (d : DevAddr) (ns : Bool) : (s.tSend bs d ns).sendAnswers = s.sendAnswers.tail := rfl
@[simp] theorem State.tSend_recvAnswers (bs : List Byte) (d : DevAddr) (ns : Bool) : (s.tSend bs d ns).recvAnswers = s.recvAnswers := rfl
@[simp] theorem State.tSend_busyAnswers (bs : List Byte) (d : DevAddr) (ns : Bool) : (s.tSend bs d ns).busyAnswers = s.busyAnswers := rfl
@[simp] theorem State.tSend_transportResponds (bs : List Byte) (d : DevAddr) (ns : Bool) : (s.tSend bs d ns).transportResponds = s.transportResponds := rfl
@[simp] theorem State.tSend_delayCompletes (bs : List Byte) (d : DevAddr) (ns : Bool) : (s.tSend bs d ns).delayCompletes = s.delayCompletes := rfl
@[simp] theorem State.tSend_sinkAccepts (bs : List Byte) (d : DevAddr) (ns : Bool) : (s.tSend bs d ns).sinkAccepts = s.sinkAccepts := rfl
@[simp] theorem State.tSend_draws (bs : List Byte) (d : DevAddr) (ns : Bool) : (s.tSend bs d ns).draws = s.draws + 1 := rfl
@[simp] theorem State.tSend_issuer (bs : List Byte) (d : DevAddr) (ns : Bool) : (s.tSend bs d ns).issuer = s.issuer := rfl
@[simp] theorem State.tSend_cmds (bs : List Byte) (d : DevAddr) (ns : Bool) : (s.tSend bs d ns).cmds = s.cmds := rfl
@[simp] theorem State.tSend_rst (bs : List Byte) (d : DevAddr) (ns : Bool) : (s.tSend bs d ns).rst = s.rst := rfl

/-! ## tReceive -/

@[simp] theorem State.tReceive_lcs (n : Nat) (d : DevAddr) : (s.tReceive n d).lcs = s.lcs := rfl
@[simp] theorem State.tReceive_lcp (n : Nat) (d : DevAddr) : (s.tReceive n d).lcp = s.lcp := rfl
@[simp] theorem State.tReceive_busReady (n : Nat) (d : DevAddr) : (s.tReceive n d).busReady = s.busReady := rfl
@[simp] theorem State.tReceive_opr (n : Nat) (d : DevAddr) : (s.tReceive n d).opr = s.opr := rfl
@[simp] theorem State.tReceive_ph (n : Nat) (d : DevAddr) : (s.tReceive n d).ph = s.ph := rfl
@[simp] theorem State.tReceive_status (n : Nat) (d : DevAddr) : (s.tReceive n d).status = s.status := rfl
@[simp] theorem State.tReceive_initErr (n : Nat) (d : DevAddr) : (s.tReceive n d).initErr = s.initErr := rfl
@[simp] theorem State.tReceive_istep (n : Nat) (d : DevAddr) : (s.tReceive n d).istep = s.istep := rfl
@[simp] theorem State.tReceive_xres (n : Nat) (d : DevAddr) : (s.tReceive n d).xres = s.recvAnswer := rfl
@[simp] theorem State.tReceive_dev (n : Nat) (d : DevAddr) : (s.tReceive n d).dev = s.dev := rfl
@[simp] theorem State.tReceive_reg (n : Nat) (d : DevAddr) : (s.tReceive n d).reg = s.reg := rfl
@[simp] theorem State.tReceive_val (n : Nat) (d : DevAddr) : (s.tReceive n d).val = s.val := rfl
@[simp] theorem State.tReceive_len (n : Nat) (d : DevAddr) : (s.tReceive n d).len = s.len := rfl
@[simp] theorem State.tReceive_txbuf (n : Nat) (d : DevAddr) : (s.tReceive n d).txbuf = s.txbuf := rfl
@[simp] theorem State.tReceive_rxbuf (n : Nat) (d : DevAddr) : (s.tReceive n d).rxbuf = s.rxbuf := rfl
@[simp] theorem State.tReceive_ident (n : Nat) (d : DevAddr) : (s.tReceive n d).ident = s.ident := rfl
@[simp] theorem State.tReceive_ax (n : Nat) (d : DevAddr) : (s.tReceive n d).ax = s.ax := rfl
@[simp] theorem State.tReceive_ay (n : Nat) (d : DevAddr) : (s.tReceive n d).ay = s.ay := rfl
@[simp] theorem State.tReceive_az (n : Nat) (d : DevAddr) : (s.tReceive n d).az = s.az := rfl
@[simp] theorem State.tReceive_mismatchDue (n : Nat) (d : DevAddr) : (s.tReceive n d).mismatchDue = s.mismatchDue := rfl
@[simp] theorem State.tReceive_trace (n : Nat) (d : DevAddr) : (s.tReceive n d).trace = .tRecv d n s.recvAnswer (if s.recvAnswer = .ok then s.recvData n else []) :: s.trace := rfl
@[simp] theorem State.tReceive_initAnswers (n : Nat) (d : DevAddr) : (s.tReceive n d).initAnswers = s.initAnswers := rfl
@[simp] theorem State.tReceive_sendAnswers (n : Nat) (d : DevAddr) : (s.tReceive n d).sendAnswers = s.sendAnswers := rfl
@[simp] theorem State.tReceive_recvAnswers (n : Nat) (d : DevAddr) : (s.tReceive n d).recvAnswers = s.recvAnswers.tail := rfl
@[simp] theorem State.tReceive_busyAnswers (n : Nat) (d : DevAddr) : (s.tReceive n d).busyAnswers = s.busyAnswers := rfl
@[simp] theorem State.tReceive_transportResponds (n : Nat) (d : DevAddr) : (s.tReceive n d).transportResponds = s.transportResponds := rfl
@[simp] theorem State.tReceive_delayCompletes (n : Nat) (d : DevAddr) : (s.tReceive n d).delayCompletes = s.delayCompletes := rfl
@[simp] theorem State.tReceive_sinkAccepts (n : Nat) (d : DevAddr) : (s.tReceive n d).sinkAccepts = s.sinkAccepts := rfl
@[simp] theorem State.tReceive_draws (n : Nat) (d : DevAddr) : (s.tReceive n d).draws = s.draws + 1 := rfl
@[simp] theorem State.tReceive_issuer (n : Nat) (d : DevAddr) : (s.tReceive n d).issuer = s.issuer := rfl
@[simp] theorem State.tReceive_cmds (n : Nat) (d : DevAddr) : (s.tReceive n d).cmds = s.cmds := rfl
@[simp] theorem State.tReceive_rst (n : Nat) (d : DevAddr) : (s.tReceive n d).rst = s.rst := rfl

/-! ## tIsBusy -/

@[simp] theorem State.tIsBusy_lcs : (s.tIsBusy).lcs = s.lcs := rfl
@[simp] theorem State.tIsBusy_lcp : (s.tIsBusy).lcp = s.lcp := rfl
@[simp] theorem State.tIsBusy_busReady : (s.tIsBusy).busReady = s.busReady := rfl
@[simp] theorem State.tIsBusy_opr : (s.tIsBusy).opr = s.opr := rfl
@[simp] theorem State.tIsBusy_ph : (s.tIsBusy).ph = s.ph := rfl
@[simp] theorem State.tIsBusy_status : (s.tIsBusy).status = s.status := rfl
@[simp] theorem State.tIsBusy_initErr : (s.tIsBusy).initErr = s.initErr := rfl
@[simp] theorem State.tIsBusy_istep : (s.tIsBusy).istep = s.istep := rfl
@[simp] theorem State.tIsBusy_xres : (s.tIsBusy).xres = s.xres := rfl
@[simp] theorem State.tIsBusy_dev : (s.tIsBusy).dev = s.dev := rfl
@[simp] theorem State.tIsBusy_reg : (s.tIsBusy).reg = s.reg := rfl
@[simp] theorem State.tIsBusy_val : (s.tIsBusy).val = s.val := rfl
@[simp] theorem State.tIsBusy_len : (s.tIsBusy).len = s.len := rfl
@[simp] theorem State.tIsBusy_txbuf : (s.tIsBusy).txbuf = s.txbuf := rfl
@[simp] theorem State.tIsBusy_rxbuf : (s.tIsBusy).rxbuf = s.rxbuf := rfl
@[simp] theorem State.tIsBusy_ident : (s.tIsBusy).ident = s.ident := rfl
@[simp] theorem State.tIsBusy_ax : (s.tIsBusy).ax = s.ax := rfl
@[simp] theorem State.tIsBusy_ay : (s.tIsBusy).ay = s.ay := rfl
@[simp] theorem State.tIsBusy_az : (s.tIsBusy).az = s.az := rfl
@[simp] theorem State.tIsBusy_mismatchDue : (s.tIsBusy).mismatchDue = s.mismatchDue := rfl
@[simp] theorem State.tIsBusy_trace : (s.tIsBusy).trace = .tBusy s.busyAnswer :: s.trace := rfl
@[simp] theorem State.tIsBusy_initAnswers : (s.tIsBusy).initAnswers = s.initAnswers := rfl
@[simp] theorem State.tIsBusy_sendAnswers : (s.tIsBusy).sendAnswers = s.sendAnswers := rfl
@[simp] theorem State.tIsBusy_recvAnswers : (s.tIsBusy).recvAnswers = s.recvAnswers := rfl
@[simp] theorem State.tIsBusy_busyAnswers : (s.tIsBusy).busyAnswers = s.busyAnswers.tail := rfl
@[simp] theorem State.tIsBusy_transportResponds : (s.tIsBusy).transportResponds = s.transportResponds := rfl
@[simp] theorem State.tIsBusy_delayCompletes : (s.tIsBusy).delayCompletes = s.delayCompletes := rfl
@[simp] theorem State.tIsBusy_sinkAccepts : (s.tIsBusy).sinkAccepts = s.sinkAccepts := rfl
@[simp] theorem State.tIsBusy_draws : (s.tIsBusy).draws = s.draws + 1 := rfl
@[simp] theorem State.tIsBusy_issuer : (s.tIsBusy).issuer = s.issuer := rfl
@[simp] theorem State.tIsBusy_cmds : (s.tIsBusy).cmds = s.cmds := rfl
@[simp] theorem State.tIsBusy_rst : (s.tIsBusy).rst = s.rst := rfl

/-! ## wait -/

@[simp] theorem State.wait_lcs (ms : Nat) : (s.wait ms).lcs = s.lcs := rfl
@[simp] theorem State.wait_lcp (ms : Nat) : (s.wait ms).lcp = s.lcp := rfl
@[simp] theorem State.wait_busReady (ms : Nat) : (s.wait ms).busReady = s.busReady := rfl
@[simp] theorem State.wait_opr (ms : Nat) : (s.wait ms).opr = s.opr := rfl
@[simp] theorem State.wait_ph (ms : Nat) : (s.wait ms).ph = s.ph := rfl
@[simp] theorem State.wait_status (ms : Nat) : (s.wait ms).status = s.status := rfl
@[simp] theorem State.wait_initErr (ms : Nat) : (s.wait ms).initErr = s.initErr := rfl
@[simp] theorem State.wait_istep (ms : Nat) : (s.wait ms).istep = s.istep := rfl
@[simp] theorem State.wait_xres (ms : Nat) : (s.wait ms).xres = s.xres := rfl
@[simp] theorem State.wait_dev (ms : Nat) : (s.wait ms).dev = s.dev := rfl
@[simp] theorem State.wait_reg (ms : Nat) : (s.wait ms).reg = s.reg := rfl
@[simp] theorem State.wait_val (ms : Nat) : (s.wait ms).val = s.val := rfl
@[simp] theorem State.wait_len (ms : Nat) : (s.wait ms).len = s.len := rfl
@[simp] theorem State.wait_txbuf (ms : Nat) : (s.wait ms).txbuf = s.txbuf := rfl
@[simp] theorem State.wait_rxbuf (ms : Nat) : (s.wait ms).rxbuf = s.rxbuf := rfl
@[simp] theorem State.wait_ident (ms : Nat) : (s.wait ms).ident = s.ident := rfl
@[simp] theorem State.wait_ax (ms : Nat) : (s.wait ms).ax = s.ax := rfl
@[simp] theorem State.wait_ay (ms : Nat) : (s.wait ms).ay = s.ay := rfl
@[simp] theorem State.wait_az (ms : Nat) : (s.wait ms).az = s.az := rfl
@[simp] theorem State.wait_mismatchDue (ms : Nat) : (s.wait ms).mismatchDue = s.mismatchDue := rfl
@[simp] theorem State.wait_trace (ms : Nat) : (s.wait ms).trace = .delay ms :: s.trace := rfl
@[simp] theorem State.wait_initAnswers (ms : Nat) : (s.wait ms).initAnswers = s.initAnswers := rfl
@[simp] theorem State.wait_sendAnswers (ms : Nat) : (s.wait ms).sendAnswers = s.sendAnswers := rfl
@[simp] theorem State.wait_recvAnswers (ms : Nat) : (s.wait ms).recvAnswers = s.recvAnswers := rfl
@[simp] theorem State.wait_busyAnswers (ms : Nat) : (s.wait ms).busyAnswers = s.busyAnswers := rfl
@[simp] theorem State.wait_transportResponds (ms : Nat) : (s.wait ms).transportResponds = s.transportResponds := rfl
@[simp] theorem State.wait_delayCompletes (ms : Nat) : (s.wait ms).delayCompletes = s.delayCompletes := rfl
@[simp] theorem State.wait_sinkAccepts (ms : Nat) : (s.wait ms).sinkAccepts = s.sinkAccepts := rfl
@[simp] theorem State.wait_draws (ms : Nat) : (s.wait ms).draws = s.draws := rfl
@[simp] theorem State.wait_issuer (ms : Nat) : (s.wait ms).issuer = s.issuer := rfl
@[simp] theorem State.wait_cmds (ms : Nat) : (s.wait ms).cmds = s.cmds := rfl
@[simp] theorem State.wait_rst (ms : Nat) : (s.wait ms).rst = s.rst := rfl

/-! ## emit -/

@[simp] theorem State.emit_lcs (r : Report) : (s.emit r).lcs = s.lcs := rfl
@[simp] theorem State.emit_lcp (r : Report) : (s.emit r).lcp = s.lcp := rfl
@[simp] theorem State.emit_busReady (r : Report) : (s.emit r).busReady = s.busReady := rfl
@[simp] theorem State.emit_opr (r : Report) : (s.emit r).opr = s.opr := rfl
@[simp] theorem State.emit_ph (r : Report) : (s.emit r).ph = s.ph := rfl
@[simp] theorem State.emit_status (r : Report) : (s.emit r).status = s.status := rfl
@[simp] theorem State.emit_initErr (r : Report) : (s.emit r).initErr = s.initErr := rfl
@[simp] theorem State.emit_istep (r : Report) : (s.emit r).istep = s.istep := rfl
@[simp] theorem State.emit_xres (r : Report) : (s.emit r).xres = s.xres := rfl
@[simp] theorem State.emit_dev (r : Report) : (s.emit r).dev = s.dev := rfl
@[simp] theorem State.emit_reg (r : Report) : (s.emit r).reg = s.reg := rfl
@[simp] theorem State.emit_val (r : Report) : (s.emit r).val = s.val := rfl
@[simp] theorem State.emit_len (r : Report) : (s.emit r).len = s.len := rfl
@[simp] theorem State.emit_txbuf (r : Report) : (s.emit r).txbuf = s.txbuf := rfl
@[simp] theorem State.emit_rxbuf (r : Report) : (s.emit r).rxbuf = s.rxbuf := rfl
@[simp] theorem State.emit_ident (r : Report) : (s.emit r).ident = s.ident := rfl
@[simp] theorem State.emit_ax (r : Report) : (s.emit r).ax = s.ax := rfl
@[simp] theorem State.emit_ay (r : Report) : (s.emit r).ay = s.ay := rfl
@[simp] theorem State.emit_az (r : Report) : (s.emit r).az = s.az := rfl
@[simp] theorem State.emit_mismatchDue (r : Report) : (s.emit r).mismatchDue = s.mismatchDue := rfl
@[simp] theorem State.emit_trace (r : Report) : (s.emit r).trace = .emit r :: s.trace := rfl
@[simp] theorem State.emit_initAnswers (r : Report) : (s.emit r).initAnswers = s.initAnswers := rfl
@[simp] theorem State.emit_sendAnswers (r : Report) : (s.emit r).sendAnswers = s.sendAnswers := rfl
@[simp] theorem State.emit_recvAnswers (r : Report) : (s.emit r).recvAnswers = s.recvAnswers := rfl
@[simp] theorem State.emit_busyAnswers (r : Report) : (s.emit r).busyAnswers = s.busyAnswers := rfl
@[simp] theorem State.emit_transportResponds (r : Report) : (s.emit r).transportResponds = s.transportResponds := rfl
@[simp] theorem State.emit_delayCompletes (r : Report) : (s.emit r).delayCompletes = s.delayCompletes := rfl
@[simp] theorem State.emit_sinkAccepts (r : Report) : (s.emit r).sinkAccepts = s.sinkAccepts := rfl
@[simp] theorem State.emit_draws (r : Report) : (s.emit r).draws = s.draws := rfl
@[simp] theorem State.emit_issuer (r : Report) : (s.emit r).issuer = s.issuer := rfl
@[simp] theorem State.emit_cmds (r : Report) : (s.emit r).cmds = s.cmds := rfl
@[simp] theorem State.emit_rst (r : Report) : (s.emit r).rst = s.rst := rfl

/-! ## askedTransport -/

@[simp] theorem State.askedTransport_lcs : (s.askedTransport).lcs = s.lcs := rfl
@[simp] theorem State.askedTransport_lcp : (s.askedTransport).lcp = s.lcp := rfl
@[simp] theorem State.askedTransport_busReady : (s.askedTransport).busReady = s.busReady := rfl
@[simp] theorem State.askedTransport_opr : (s.askedTransport).opr = s.opr := rfl
@[simp] theorem State.askedTransport_ph : (s.askedTransport).ph = s.ph := rfl
@[simp] theorem State.askedTransport_status : (s.askedTransport).status = s.status := rfl
@[simp] theorem State.askedTransport_initErr : (s.askedTransport).initErr = s.initErr := rfl
@[simp] theorem State.askedTransport_istep : (s.askedTransport).istep = s.istep := rfl
@[simp] theorem State.askedTransport_xres : (s.askedTransport).xres = s.xres := rfl
@[simp] theorem State.askedTransport_dev : (s.askedTransport).dev = s.dev := rfl
@[simp] theorem State.askedTransport_reg : (s.askedTransport).reg = s.reg := rfl
@[simp] theorem State.askedTransport_val : (s.askedTransport).val = s.val := rfl
@[simp] theorem State.askedTransport_len : (s.askedTransport).len = s.len := rfl
@[simp] theorem State.askedTransport_txbuf : (s.askedTransport).txbuf = s.txbuf := rfl
@[simp] theorem State.askedTransport_rxbuf : (s.askedTransport).rxbuf = s.rxbuf := rfl
@[simp] theorem State.askedTransport_ident : (s.askedTransport).ident = s.ident := rfl
@[simp] theorem State.askedTransport_ax : (s.askedTransport).ax = s.ax := rfl
@[simp] theorem State.askedTransport_ay : (s.askedTransport).ay = s.ay := rfl
@[simp] theorem State.askedTransport_az : (s.askedTransport).az = s.az := rfl
@[simp] theorem State.askedTransport_mismatchDue : (s.askedTransport).mismatchDue = s.mismatchDue := rfl
@[simp] theorem State.askedTransport_trace : (s.askedTransport).trace = s.trace := rfl
@[simp] theorem State.askedTransport_initAnswers : (s.askedTransport).initAnswers = s.initAnswers := rfl
@[simp] theorem State.askedTransport_sendAnswers : (s.askedTransport).sendAnswers = s.sendAnswers := rfl
@[simp] theorem State.askedTransport_recvAnswers : (s.askedTransport).recvAnswers = s.recvAnswers := rfl
@[simp] theorem State.askedTransport_busyAnswers : (s.askedTransport).busyAnswers = s.busyAnswers := rfl
@[simp] theorem State.askedTransport_transportResponds : (s.askedTransport).transportResponds = s.transportResponds.tail := rfl
@[simp] theorem State.askedTransport_delayCompletes : (s.askedTransport).delayCompletes = s.delayCompletes := rfl
@[simp] theorem State.askedTransport_sinkAccepts : (s.askedTransport).sinkAccepts = s.sinkAccepts := rfl
@[simp] theorem State.askedTransport_draws : (s.askedTransport).draws = s.draws + 1 := rfl
@[simp] theorem State.askedTransport_issuer : (s.askedTransport).issuer = s.issuer := rfl
@[simp] theorem State.askedTransport_cmds : (s.askedTransport).cmds = s.cmds := rfl
@[simp] theorem State.askedTransport_rst : (s.askedTransport).rst = s.rst := rfl

/-! ## askedDelay -/

@[simp] theorem State.askedDelay_lcs : (s.askedDelay).lcs = s.lcs := rfl
@[simp] theorem State.askedDelay_lcp : (s.askedDelay).lcp = s.lcp := rfl
@[simp] theorem State.askedDelay_busReady : (s.askedDelay).busReady = s.busReady := rfl
@[simp] theorem State.askedDelay_opr : (s.askedDelay).opr = s.opr := rfl
@[simp] theorem State.askedDelay_ph : (s.askedDelay).ph = s.ph := rfl
@[simp] theorem State.askedDelay_status : (s.askedDelay).status = s.status := rfl
@[simp] theorem State.askedDelay_initErr : (s.askedDelay).initErr = s.initErr := rfl
@[simp] theorem State.askedDelay_istep : (s.askedDelay).istep = s.istep := rfl
@[simp] theorem State.askedDelay_xres : (s.askedDelay).xres = s.xres := rfl
@[simp] theorem State.askedDelay_dev : (s.askedDelay).dev = s.dev := rfl
@[simp] theorem State.askedDelay_reg : (s.askedDelay).reg = s.reg := rfl
@[simp] theorem State.askedDelay_val : (s.askedDelay).val = s.val := rfl
@[simp] theorem State.askedDelay_len : (s.askedDelay).len = s.len := rfl
@[simp] theorem State.askedDelay_txbuf : (s.askedDelay).txbuf = s.txbuf := rfl
@[simp] theorem State.askedDelay_rxbuf : (s.askedDelay).rxbuf = s.rxbuf := rfl
@[simp] theorem State.askedDelay_ident : (s.askedDelay).ident = s.ident := rfl
@[simp] theorem State.askedDelay_ax : (s.askedDelay).ax = s.ax := rfl
@[simp] theorem State.askedDelay_ay : (s.askedDelay).ay = s.ay := rfl
@[simp] theorem State.askedDelay_az : (s.askedDelay).az = s.az := rfl
@[simp] theorem State.askedDelay_mismatchDue : (s.askedDelay).mismatchDue = s.mismatchDue := rfl
@[simp] theorem State.askedDelay_trace : (s.askedDelay).trace = s.trace := rfl
@[simp] theorem State.askedDelay_initAnswers : (s.askedDelay).initAnswers = s.initAnswers := rfl
@[simp] theorem State.askedDelay_sendAnswers : (s.askedDelay).sendAnswers = s.sendAnswers := rfl
@[simp] theorem State.askedDelay_recvAnswers : (s.askedDelay).recvAnswers = s.recvAnswers := rfl
@[simp] theorem State.askedDelay_busyAnswers : (s.askedDelay).busyAnswers = s.busyAnswers := rfl
@[simp] theorem State.askedDelay_transportResponds : (s.askedDelay).transportResponds = s.transportResponds := rfl
@[simp] theorem State.askedDelay_delayCompletes : (s.askedDelay).delayCompletes = s.delayCompletes.tail := rfl
@[simp] theorem State.askedDelay_sinkAccepts : (s.askedDelay).sinkAccepts = s.sinkAccepts := rfl
@[simp] theorem State.askedDelay_draws : (s.askedDelay).draws = s.draws + 1 := rfl
@[simp] theorem State.askedDelay_issuer : (s.askedDelay).issuer = s.issuer := rfl
@[simp] theorem State.askedDelay_cmds : (s.askedDelay).cmds = s.cmds := rfl
@[simp] theorem State.askedDelay_rst : (s.askedDelay).rst = s.rst := rfl

/-! ## askedSink -/

@[simp] theorem State.askedSink_lcs : (s.askedSink).lcs = s.lcs := rfl
@[simp] theorem State.askedSink_lcp : (s.askedSink).lcp = s.lcp := rfl
@[simp] theorem State.askedSink_busReady : (s.askedSink).busReady = s.busReady := rfl
@[simp] theorem State.askedSink_opr : (s.askedSink).opr = s.opr := rfl
@[simp] theorem State.askedSink_ph : (s.askedSink).ph = s.ph := rfl
@[simp] theorem State.askedSink_status : (s.askedSink).status = s.status := rfl
@[simp] theorem State.askedSink_initErr : (s.askedSink).initErr = s.initErr := rfl
@[simp] theorem State.askedSink_istep : (s.askedSink).istep = s.istep := rfl
@[simp] theorem State.askedSink_xres : (s.askedSink).xres = s.xres := rfl
@[simp] theorem State.askedSink_dev : (s.askedSink).dev = s.dev := rfl
@[simp] theorem State.askedSink_reg : (s.askedSink).reg = s.reg := rfl
@[simp] theorem State.askedSink_val : (s.askedSink).val = s.val := rfl
@[simp] theorem State.askedSink_len : (s.askedSink).len = s.len := rfl
@[simp] theorem State.askedSink_txbuf : (s.askedSink).txbuf = s.txbuf := rfl
@[simp] theorem State.askedSink_rxbuf : (s.askedSink).rxbuf = s.rxbuf := rfl
@[simp] theorem State.askedSink_ident : (s.askedSink).ident = s.ident := rfl
@[simp] theorem State.askedSink_ax : (s.askedSink).ax = s.ax := rfl
@[simp] theorem State.askedSink_ay : (s.askedSink).ay = s.ay := rfl
@[simp] theorem State.askedSink_az : (s.askedSink).az = s.az := rfl
@[simp] theorem State.askedSink_mismatchDue : (s.askedSink).mismatchDue = s.mismatchDue := rfl
@[simp] theorem State.askedSink_trace : (s.askedSink).trace = s.trace := rfl
@[simp] theorem State.askedSink_initAnswers : (s.askedSink).initAnswers = s.initAnswers := rfl
@[simp] theorem State.askedSink_sendAnswers : (s.askedSink).sendAnswers = s.sendAnswers := rfl
@[simp] theorem State.askedSink_recvAnswers : (s.askedSink).recvAnswers = s.recvAnswers := rfl
@[simp] theorem State.askedSink_busyAnswers : (s.askedSink).busyAnswers = s.busyAnswers := rfl
@[simp] theorem State.askedSink_transportResponds : (s.askedSink).transportResponds = s.transportResponds := rfl
@[simp] theorem State.askedSink_delayCompletes : (s.askedSink).delayCompletes = s.delayCompletes := rfl
@[simp] theorem State.askedSink_sinkAccepts : (s.askedSink).sinkAccepts = s.sinkAccepts.tail := rfl
@[simp] theorem State.askedSink_draws : (s.askedSink).draws = s.draws + 1 := rfl
@[simp] theorem State.askedSink_issuer : (s.askedSink).issuer = s.issuer := rfl
@[simp] theorem State.askedSink_cmds : (s.askedSink).cmds = s.cmds := rfl
@[simp] theorem State.askedSink_rst : (s.askedSink).rst = s.rst := rfl

/-! ## setTx0 -/

@[simp] theorem State.setTx0_lcs (b : Byte) : (s.setTx0 b).lcs = s.lcs := rfl
@[simp] theorem State.setTx0_lcp (b : Byte) : (s.setTx0 b).lcp = s.lcp := rfl
@[simp] theorem State.setTx0_busReady (b : Byte) : (s.setTx0 b).busReady = s.busReady := rfl
@[simp] theorem State.setTx0_opr (b : Byte) : (s.setTx0 b).opr = s.opr := rfl
@[simp] theorem State.setTx0_ph (b : Byte) : (s.setTx0 b).ph = s.ph := rfl
@[simp] theorem State.setTx0_status (b : Byte) : (s.setTx0 b).status = s.status := rfl
@[simp] theorem State.setTx0_initErr (b : Byte) : (s.setTx0 b).initErr = s.initErr := rfl
@[simp] theorem State.setTx0_istep (b : Byte) : (s.setTx0 b).istep = s.istep := rfl
@[simp] theorem State.setTx0_xres (b : Byte) : (s.setTx0 b).xres = s.xres := rfl
@[simp] theorem State.setTx0_dev (b : Byte) : (s.setTx0 b).dev = s.dev := rfl
@[simp] theorem State.setTx0_reg (b : Byte) : (s.setTx0 b).reg = s.reg := rfl
@[simp] theorem State.setTx0_val (b : Byte) : (s.setTx0 b).val = s.val := rfl
@[simp] theorem State.setTx0_len (b : Byte) : (s.setTx0 b).len = s.len := rfl
@[simp] theorem State.setTx0_txbuf (b : Byte) : (s.setTx0 b).txbuf = s.txbuf.set 0 b := rfl
@[simp] theorem State.setTx0_rxbuf (b : Byte) : (s.setTx0 b).rxbuf = s.rxbuf := rfl
@[simp] theorem State.setTx0_ident (b : Byte) : (s.setTx0 b).ident = s.ident := rfl
@[simp] theorem State.setTx0_ax (b : Byte) : (s.setTx0 b).ax = s.ax := rfl
@[simp] theorem State.setTx0_ay (b : Byte) : (s.setTx0 b).ay = s.ay := rfl
@[simp] theorem State.setTx0_az (b : Byte) : (s.setTx0 b).az = s.az := rfl
@[simp] theorem State.setTx0_mismatchDue (b : Byte) : (s.setTx0 b).mismatchDue = s.mismatchDue := rfl
@[simp] theorem State.setTx0_trace (b : Byte) : (s.setTx0 b).trace = s.trace := rfl
@[simp] theorem State.setTx0_initAnswers (b : Byte) : (s.setTx0 b).initAnswers = s.initAnswers := rfl
@[simp] theorem State.setTx0_sendAnswers (b : Byte) : (s.setTx0 b).sendAnswers = s.sendAnswers := rfl
@[simp] theorem State.setTx0_recvAnswers (b : Byte) : (s.setTx0 b).recvAnswers = s.recvAnswers := rfl
@[simp] theorem State.setTx0_busyAnswers (b : Byte) : (s.setTx0 b).busyAnswers = s.busyAnswers := rfl
@[simp] theorem State.setTx0_transportResponds (b : Byte) : (s.setTx0 b).transportResponds = s.transportResponds := rfl
@[simp] theorem State.setTx0_delayCompletes (b : Byte) : (s.setTx0 b).delayCompletes = s.delayCompletes := rfl
@[simp] theorem State.setTx0_sinkAccepts (b : Byte) : (s.setTx0 b).sinkAccepts = s.sinkAccepts := rfl
@[simp] theorem State.setTx0_draws (b : Byte) : (s.setTx0 b).draws = s.draws := rfl
@[simp] theorem State.setTx0_issuer (b : Byte) : (s.setTx0 b).issuer = s.issuer := rfl
@[simp] theorem State.setTx0_cmds (b : Byte) : (s.setTx0 b).cmds = s.cmds := rfl
@[simp] theorem State.setTx0_rst (b : Byte) : (s.setTx0 b).rst = s.rst := rfl

/-! ## setTx1 -/

@[simp] theorem State.setTx1_lcs (b : Byte) : (s.setTx1 b).lcs = s.lcs := rfl
@[simp] theorem State.setTx1_lcp (b : Byte) : (s.setTx1 b).lcp = s.lcp := rfl
@[simp] theorem State.setTx1_busReady (b : Byte) : (s.setTx1 b).busReady = s.busReady := rfl
@[simp] theorem State.setTx1_opr (b : Byte) : (s.setTx1 b).opr = s.opr := rfl
@[simp] theorem State.setTx1_ph (b : Byte) : (s.setTx1 b).ph = s.ph := rfl
@[simp] theorem State.setTx1_status (b : Byte) : (s.setTx1 b).status = s.status := rfl
@[simp] theorem State.setTx1_initErr (b : Byte) : (s.setTx1 b).initErr = s.initErr := rfl
@[simp] theorem State.setTx1_istep (b : Byte) : (s.setTx1 b).istep = s.istep := rfl
@[simp] theorem State.setTx1_xres (b : Byte) : (s.setTx1 b).xres = s.xres := rfl
@[simp] theorem State.setTx1_dev (b : Byte) : (s.setTx1 b).dev = s.dev := rfl
@[simp] theorem State.setTx1_reg (b : Byte) : (s.setTx1 b).reg = s.reg := rfl
@[simp] theorem State.setTx1_val (b : Byte) : (s.setTx1 b).val = s.val := rfl
@[simp] theorem State.setTx1_len (b : Byte) : (s.setTx1 b).len = s.len := rfl
@[simp] theorem State.setTx1_txbuf (b : Byte) : (s.setTx1 b).txbuf = s.txbuf.set 1 b := rfl
@[simp] theorem State.setTx1_rxbuf (b : Byte) : (s.setTx1 b).rxbuf = s.rxbuf := rfl
@[simp] theorem State.setTx1_ident (b : Byte) : (s.setTx1 b).ident = s.ident := rfl
@[simp] theorem State.setTx1_ax (b : Byte) : (s.setTx1 b).ax = s.ax := rfl
@[simp] theorem State.setTx1_ay (b : Byte) : (s.setTx1 b).ay = s.ay := rfl
@[simp] theorem State.setTx1_az (b : Byte) : (s.setTx1 b).az = s.az := rfl
@[simp] theorem State.setTx1_mismatchDue (b : Byte) : (s.setTx1 b).mismatchDue = s.mismatchDue := rfl
@[simp] theorem State.setTx1_trace (b : Byte) : (s.setTx1 b).trace = s.trace := rfl
@[simp] theorem State.setTx1_initAnswers (b : Byte) : (s.setTx1 b).initAnswers = s.initAnswers := rfl
@[simp] theorem State.setTx1_sendAnswers (b : Byte) : (s.setTx1 b).sendAnswers = s.sendAnswers := rfl
@[simp] theorem State.setTx1_recvAnswers (b : Byte) : (s.setTx1 b).recvAnswers = s.recvAnswers := rfl
@[simp] theorem State.setTx1_busyAnswers (b : Byte) : (s.setTx1 b).busyAnswers = s.busyAnswers := rfl
@[simp] theorem State.setTx1_transportResponds (b : Byte) : (s.setTx1 b).transportResponds = s.transportResponds := rfl
@[simp] theorem State.setTx1_delayCompletes (b : Byte) : (s.setTx1 b).delayCompletes = s.delayCompletes := rfl
@[simp] theorem State.setTx1_sinkAccepts (b : Byte) : (s.setTx1 b).sinkAccepts = s.sinkAccepts := rfl
@[simp] theorem State.setTx1_draws (b : Byte) : (s.setTx1 b).draws = s.draws := rfl
@[simp] theorem State.setTx1_issuer (b : Byte) : (s.setTx1 b).issuer = s.issuer := rfl
@[simp] theorem State.setTx1_cmds (b : Byte) : (s.setTx1 b).cmds = s.cmds := rfl
@[simp] theorem State.setTx1_rst (b : Byte) : (s.setTx1 b).rst = s.rst := rfl

/-! ## fillRx -/

@[simp] theorem State.fillRx_lcs (n : Nat) (f : Nat → Byte) : (s.fillRx n f).lcs = s.lcs := rfl
@[simp] theorem State.fillRx_lcp (n : Nat) (f : Nat → Byte) : (s.fillRx n f).lcp = s.lcp := rfl
@[simp] theorem State.fillRx_busReady (n : Nat) (f : Nat → Byte) : (s.fillRx n f).busReady = s.busReady := rfl
@[simp] theorem State.fillRx_opr (n : Nat) (f : Nat → Byte) : (s.fillRx n f).opr = s.opr := rfl
@[simp] theorem State.fillRx_ph (n : Nat) (f : Nat → Byte) : (s.fillRx n f).ph = s.ph := rfl
@[simp] theorem State.fillRx_status (n : Nat) (f : Nat → Byte) : (s.fillRx n f).status = s.status := rfl
@[simp] theorem State.fillRx_initErr (n : Nat) (f : Nat → Byte) : (s.fillRx n f).initErr = s.initErr := rfl
@[simp] theorem State.fillRx_istep (n : Nat) (f : Nat → Byte) : (s.fillRx n f).istep = s.istep := rfl
@[simp] theorem State.fillRx_xres (n : Nat) (f : Nat → Byte) : (s.fillRx n f).xres = s.xres := rfl
@[simp] theorem State.fillRx_dev (n : Nat) (f : Nat → Byte) : (s.fillRx n f).dev = s.dev := rfl
@[simp] theorem State.fillRx_reg (n : Nat) (f : Nat → Byte) : (s.fillRx n f).reg = s.reg := rfl
@[simp] theorem State.fillRx_val (n : Nat) (f : Nat → Byte) : (s.fillRx n f).val = s.val := rfl
@[simp] theorem State.fillRx_len (n : Nat) (f : Nat → Byte) : (s.fillRx n f).len = s.len := rfl
@[simp] theorem State.fillRx_txbuf (n : Nat) (f : Nat → Byte) : (s.fillRx n f).txbuf = s.txbuf := rfl
@[simp] theorem State.fillRx_rxbuf (n : Nat) (f : Nat → Byte) : (s.fillRx n f).rxbuf = fillBytes s.rxbuf n f := rfl
@[simp] theorem State.fillRx_ident (n : Nat) (f : Nat → Byte) : (s.fillRx n f).ident = s.ident := rfl
@[simp] theorem State.fillRx_ax (n : Nat) (f : Nat → Byte) : (s.fillRx n f).ax = s.ax := rfl
@[simp] theorem State.fillRx_ay (n : Nat) (f : Nat → Byte) : (s.fillRx n f).ay = s.ay := rfl
@[simp] theorem State.fillRx_az (n : Nat) (f : Nat → Byte) : (s.fillRx n f).az = s.az := rfl
@[simp] theorem State.fillRx_mismatchDue (n : Nat) (f : Nat → Byte) : (s.fillRx n f).mismatchDue = s.mismatchDue := rfl
@[simp] theorem State.fillRx_trace (n : Nat) (f : Nat → Byte) : (s.fillRx n f).trace = s.trace := rfl
@[simp] theorem State.fillRx_initAnswers (n : Nat) (f : Nat → Byte) : (s.fillRx n f).initAnswers = s.initAnswers := rfl
@[simp] theorem State.fillRx_sendAnswers (n : Nat) (f : Nat → Byte) : (s.fillRx n f).sendAnswers = s.sendAnswers := rfl
@[simp] theorem State.fillRx_recvAnswers (n : Nat) (f : Nat → Byte) : (s.fillRx n f).recvAnswers = s.recvAnswers := rfl
@[simp] theorem State.fillRx_busyAnswers (n : Nat) (f : Nat → Byte) : (s.fillRx n f).busyAnswers = s.busyAnswers := rfl
@[simp] theorem State.fillRx_transportResponds (n : Nat) (f : Nat → Byte) : (s.fillRx n f).transportResponds = s.transportResponds := rfl
@[simp] theorem State.fillRx_delayCompletes (n : Nat) (f : Nat → Byte) : (s.fillRx n f).delayCompletes = s.delayCompletes := rfl
@[simp] theorem State.fillRx_sinkAccepts (n : Nat) (f : Nat → Byte) : (s.fillRx n f).sinkAccepts = s.sinkAccepts := rfl
@[simp] theorem State.fillRx_draws (n : Nat) (f : Nat → Byte) : (s.fillRx n f).draws = s.draws := rfl
@[simp] theorem State.fillRx_issuer (n : Nat) (f : Nat → Byte) : (s.fillRx n f).issuer = s.issuer := rfl
@[simp] theorem State.fillRx_cmds (n : Nat) (f : Nat → Byte) : (s.fillRx n f).cmds = s.cmds := rfl
@[simp] theorem State.fillRx_rst (n : Nat) (f : Nat → Byte) : (s.fillRx n f).rst = s.rst := rfl

/-! ## undefineRx -/

@[simp] theorem State.undefineRx_lcs (n : Nat) : (s.undefineRx n).lcs = s.lcs := rfl
@[simp] theorem State.undefineRx_lcp (n : Nat) : (s.undefineRx n).lcp = s.lcp := rfl
@[simp] theorem State.undefineRx_busReady (n : Nat) : (s.undefineRx n).busReady = s.busReady := rfl
@[simp] theorem State.undefineRx_opr (n : Nat) : (s.undefineRx n).opr = s.opr := rfl
@[simp] theorem State.undefineRx_ph (n : Nat) : (s.undefineRx n).ph = s.ph := rfl
@[simp] theorem State.undefineRx_status (n : Nat) : (s.undefineRx n).status = s.status := rfl
@[simp] theorem State.undefineRx_initErr (n : Nat) : (s.undefineRx n).initErr = s.initErr := rfl
@[simp] theorem State.undefineRx_istep (n : Nat) : (s.undefineRx n).istep = s.istep := rfl
@[simp] theorem State.undefineRx_xres (n : Nat) : (s.undefineRx n).xres = s.xres := rfl
@[simp] theorem State.undefineRx_dev (n : Nat) : (s.undefineRx n).dev = s.dev := rfl
@[simp] theorem State.undefineRx_reg (n : Nat) : (s.undefineRx n).reg = s.reg := rfl
@[simp] theorem State.undefineRx_val (n : Nat) : (s.undefineRx n).val = s.val := rfl
@[simp] theorem State.undefineRx_len (n : Nat) : (s.undefineRx n).len = s.len := rfl
@[simp] theorem State.undefineRx_txbuf (n : Nat) : (s.undefineRx n).txbuf = s.txbuf := rfl
@[simp] theorem State.undefineRx_rxbuf (n : Nat) : (s.undefineRx n).rxbuf = fillBytes s.rxbuf n (Config.undefined 8 s.draws) := rfl
@[simp] theorem State.undefineRx_ident (n : Nat) : (s.undefineRx n).ident = s.ident := rfl
@[simp] theorem State.undefineRx_ax (n : Nat) : (s.undefineRx n).ax = s.ax := rfl
@[simp] theorem State.undefineRx_ay (n : Nat) : (s.undefineRx n).ay = s.ay := rfl
@[simp] theorem State.undefineRx_az (n : Nat) : (s.undefineRx n).az = s.az := rfl
@[simp] theorem State.undefineRx_mismatchDue (n : Nat) : (s.undefineRx n).mismatchDue = s.mismatchDue := rfl
@[simp] theorem State.undefineRx_trace (n : Nat) : (s.undefineRx n).trace = s.trace := rfl
@[simp] theorem State.undefineRx_initAnswers (n : Nat) : (s.undefineRx n).initAnswers = s.initAnswers := rfl
@[simp] theorem State.undefineRx_sendAnswers (n : Nat) : (s.undefineRx n).sendAnswers = s.sendAnswers := rfl
@[simp] theorem State.undefineRx_recvAnswers (n : Nat) : (s.undefineRx n).recvAnswers = s.recvAnswers := rfl
@[simp] theorem State.undefineRx_busyAnswers (n : Nat) : (s.undefineRx n).busyAnswers = s.busyAnswers := rfl
@[simp] theorem State.undefineRx_transportResponds (n : Nat) : (s.undefineRx n).transportResponds = s.transportResponds := rfl
@[simp] theorem State.undefineRx_delayCompletes (n : Nat) : (s.undefineRx n).delayCompletes = s.delayCompletes := rfl
@[simp] theorem State.undefineRx_sinkAccepts (n : Nat) : (s.undefineRx n).sinkAccepts = s.sinkAccepts := rfl
@[simp] theorem State.undefineRx_draws (n : Nat) : (s.undefineRx n).draws = s.draws + 1 := rfl
@[simp] theorem State.undefineRx_issuer (n : Nat) : (s.undefineRx n).issuer = s.issuer := rfl
@[simp] theorem State.undefineRx_cmds (n : Nat) : (s.undefineRx n).cmds = s.cmds := rfl
@[simp] theorem State.undefineRx_rst (n : Nat) : (s.undefineRx n).rst = s.rst := rfl

/-! ## undefineIdent -/

@[simp] theorem State.undefineIdent_lcs : (s.undefineIdent).lcs = s.lcs := rfl
@[simp] theorem State.undefineIdent_lcp : (s.undefineIdent).lcp = s.lcp := rfl
@[simp] theorem State.undefineIdent_busReady : (s.undefineIdent).busReady = s.busReady := rfl
@[simp] theorem State.undefineIdent_opr : (s.undefineIdent).opr = s.opr := rfl
@[simp] theorem State.undefineIdent_ph : (s.undefineIdent).ph = s.ph := rfl
@[simp] theorem State.undefineIdent_status : (s.undefineIdent).status = s.status := rfl
@[simp] theorem State.undefineIdent_initErr : (s.undefineIdent).initErr = s.initErr := rfl
@[simp] theorem State.undefineIdent_istep : (s.undefineIdent).istep = s.istep := rfl
@[simp] theorem State.undefineIdent_xres : (s.undefineIdent).xres = s.xres := rfl
@[simp] theorem State.undefineIdent_dev : (s.undefineIdent).dev = s.dev := rfl
@[simp] theorem State.undefineIdent_reg : (s.undefineIdent).reg = s.reg := rfl
@[simp] theorem State.undefineIdent_val : (s.undefineIdent).val = s.val := rfl
@[simp] theorem State.undefineIdent_len : (s.undefineIdent).len = s.len := rfl
@[simp] theorem State.undefineIdent_txbuf : (s.undefineIdent).txbuf = s.txbuf := rfl
@[simp] theorem State.undefineIdent_rxbuf : (s.undefineIdent).rxbuf = s.rxbuf := rfl
@[simp] theorem State.undefineIdent_ident : (s.undefineIdent).ident = Config.undefined 8 s.draws 0 := rfl
@[simp] theorem State.undefineIdent_ax : (s.undefineIdent).ax = s.ax := rfl
@[simp] theorem State.undefineIdent_ay : (s.undefineIdent).ay = s.ay := rfl
@[simp] theorem State.undefineIdent_az : (s.undefineIdent).az = s.az := rfl
@[simp] theorem State.undefineIdent_mismatchDue : (s.undefineIdent).mismatchDue = s.mismatchDue := rfl
@[simp] theorem State.undefineIdent_trace : (s.undefineIdent).trace = s.trace := rfl
@[simp] theorem State.undefineIdent_initAnswers : (s.undefineIdent).initAnswers = s.initAnswers := rfl
@[simp] theorem State.undefineIdent_sendAnswers : (s.undefineIdent).sendAnswers = s.sendAnswers := rfl
@[simp] theorem State.undefineIdent_recvAnswers : (s.undefineIdent).recvAnswers = s.recvAnswers := rfl
@[simp] theorem State.undefineIdent_busyAnswers : (s.undefineIdent).busyAnswers = s.busyAnswers := rfl
@[simp] theorem State.undefineIdent_transportResponds : (s.undefineIdent).transportResponds = s.transportResponds := rfl
@[simp] theorem State.undefineIdent_delayCompletes : (s.undefineIdent).delayCompletes = s.delayCompletes := rfl
@[simp] theorem State.undefineIdent_sinkAccepts : (s.undefineIdent).sinkAccepts = s.sinkAccepts := rfl
@[simp] theorem State.undefineIdent_draws : (s.undefineIdent).draws = s.draws + 1 := rfl
@[simp] theorem State.undefineIdent_issuer : (s.undefineIdent).issuer = s.issuer := rfl
@[simp] theorem State.undefineIdent_cmds : (s.undefineIdent).cmds = s.cmds := rfl
@[simp] theorem State.undefineIdent_rst : (s.undefineIdent).rst = s.rst := rfl

/-! ## undefineAxes -/

@[simp] theorem State.undefineAxes_lcs : (s.undefineAxes).lcs = s.lcs := rfl
@[simp] theorem State.undefineAxes_lcp : (s.undefineAxes).lcp = s.lcp := rfl
@[simp] theorem State.undefineAxes_busReady : (s.undefineAxes).busReady = s.busReady := rfl
@[simp] theorem State.undefineAxes_opr : (s.undefineAxes).opr = s.opr := rfl
@[simp] theorem State.undefineAxes_ph : (s.undefineAxes).ph = s.ph := rfl
@[simp] theorem State.undefineAxes_status : (s.undefineAxes).status = s.status := rfl
@[simp] theorem State.undefineAxes_initErr : (s.undefineAxes).initErr = s.initErr := rfl
@[simp] theorem State.undefineAxes_istep : (s.undefineAxes).istep = s.istep := rfl
@[simp] theorem State.undefineAxes_xres : (s.undefineAxes).xres = s.xres := rfl
@[simp] theorem State.undefineAxes_dev : (s.undefineAxes).dev = s.dev := rfl
@[simp] theorem State.undefineAxes_reg : (s.undefineAxes).reg = s.reg := rfl
@[simp] theorem State.undefineAxes_val : (s.undefineAxes).val = s.val := rfl
@[simp] theorem State.undefineAxes_len : (s.undefineAxes).len = s.len := rfl
@[simp] theorem State.undefineAxes_txbuf : (s.undefineAxes).txbuf = s.txbuf := rfl
@[simp] theorem State.undefineAxes_rxbuf : (s.undefineAxes).rxbuf = s.rxbuf := rfl
@[simp] theorem State.undefineAxes_ident : (s.undefineAxes).ident = s.ident := rfl
@[simp] theorem State.undefineAxes_ax : (s.undefineAxes).ax = Config.undefined 16 s.draws 0 := rfl
@[simp] theorem State.undefineAxes_ay : (s.undefineAxes).ay = Config.undefined 16 s.draws 1 := rfl
@[simp] theorem State.undefineAxes_az : (s.undefineAxes).az = Config.undefined 16 s.draws 2 := rfl
@[simp] theorem State.undefineAxes_mismatchDue : (s.undefineAxes).mismatchDue = s.mismatchDue := rfl
@[simp] theorem State.undefineAxes_trace : (s.undefineAxes).trace = s.trace := rfl
@[simp] theorem State.undefineAxes_initAnswers : (s.undefineAxes).initAnswers = s.initAnswers := rfl
@[simp] theorem State.undefineAxes_sendAnswers : (s.undefineAxes).sendAnswers = s.sendAnswers := rfl
@[simp] theorem State.undefineAxes_recvAnswers : (s.undefineAxes).recvAnswers = s.recvAnswers := rfl
@[simp] theorem State.undefineAxes_busyAnswers : (s.undefineAxes).busyAnswers = s.busyAnswers := rfl
@[simp] theorem State.undefineAxes_transportResponds : (s.undefineAxes).transportResponds = s.transportResponds := rfl
@[simp] theorem State.undefineAxes_delayCompletes : (s.undefineAxes).delayCompletes = s.delayCompletes := rfl
@[simp] theorem State.undefineAxes_sinkAccepts : (s.undefineAxes).sinkAccepts = s.sinkAccepts := rfl
@[simp] theorem State.undefineAxes_draws : (s.undefineAxes).draws = s.draws + 1 := rfl
@[simp] theorem State.undefineAxes_issuer : (s.undefineAxes).issuer = s.issuer := rfl
@[simp] theorem State.undefineAxes_cmds : (s.undefineAxes).cmds = s.cmds := rfl
@[simp] theorem State.undefineAxes_rst : (s.undefineAxes).rst = s.rst := rfl

/-! ## ret -/

@[simp] theorem State.ret_lcs (c : Status) : (s.ret c).lcs = s.lcs := rfl
@[simp] theorem State.ret_lcp (c : Status) : (s.ret c).lcp = s.lcp := rfl
@[simp] theorem State.ret_busReady (c : Status) : (s.ret c).busReady = s.busReady := rfl
@[simp] theorem State.ret_opr (c : Status) : (s.ret c).opr = .none := rfl
@[simp] theorem State.ret_ph (c : Status) : (s.ret c).ph = .idle := rfl
@[simp] theorem State.ret_status (c : Status) : (s.ret c).status = c := rfl
@[simp] theorem State.ret_initErr (c : Status) : (s.ret c).initErr = s.initErr := rfl
@[simp] theorem State.ret_istep (c : Status) : (s.ret c).istep = s.istep := rfl
@[simp] theorem State.ret_xres (c : Status) : (s.ret c).xres = s.xres := rfl
@[simp] theorem State.ret_dev (c : Status) : (s.ret c).dev = s.dev := rfl
@[simp] theorem State.ret_reg (c : Status) : (s.ret c).reg = s.reg := rfl
@[simp] theorem State.ret_val (c : Status) : (s.ret c).val = s.val := rfl
@[simp] theorem State.ret_len (c : Status) : (s.ret c).len = s.len := rfl
@[simp] theorem State.ret_txbuf (c : Status) : (s.ret c).txbuf = s.txbuf := rfl
@[simp] theorem State.ret_rxbuf (c : Status) : (s.ret c).rxbuf = s.rxbuf := rfl
@[simp] theorem State.ret_ident (c : Status) : (s.ret c).ident = s.ident := rfl
@[simp] theorem State.ret_ax (c : Status) : (s.ret c).ax = s.ax := rfl
@[simp] theorem State.ret_ay (c : Status) : (s.ret c).ay = s.ay := rfl
@[simp] theorem State.ret_az (c : Status) : (s.ret c).az = s.az := rfl
@[simp] theorem State.ret_mismatchDue (c : Status) : (s.ret c).mismatchDue = s.mismatchDue := rfl
@[simp] theorem State.ret_trace (c : Status) : (s.ret c).trace = s.trace := rfl
@[simp] theorem State.ret_initAnswers (c : Status) : (s.ret c).initAnswers = s.initAnswers := rfl
@[simp] theorem State.ret_sendAnswers (c : Status) : (s.ret c).sendAnswers = s.sendAnswers := rfl
@[simp] theorem State.ret_recvAnswers (c : Status) : (s.ret c).recvAnswers = s.recvAnswers := rfl
@[simp] theorem State.ret_busyAnswers (c : Status) : (s.ret c).busyAnswers = s.busyAnswers := rfl
@[simp] theorem State.ret_transportResponds (c : Status) : (s.ret c).transportResponds = s.transportResponds := rfl
@[simp] theorem State.ret_delayCompletes (c : Status) : (s.ret c).delayCompletes = s.delayCompletes := rfl
@[simp] theorem State.ret_sinkAccepts (c : Status) : (s.ret c).sinkAccepts = s.sinkAccepts := rfl
@[simp] theorem State.ret_draws (c : Status) : (s.ret c).draws = s.draws := rfl
@[simp] theorem State.ret_issuer (c : Status) : (s.ret c).issuer = s.issuer := rfl
@[simp] theorem State.ret_cmds (c : Status) : (s.ret c).cmds = s.cmds := rfl
@[simp] theorem State.ret_rst (c : Status) : (s.ret c).rst = s.rst := rfl

/-! ## refuse -/

@[simp] theorem State.refuse_lcs (c : Status) : (s.refuse c).lcs = s.lcs := rfl
@[simp] theorem State.refuse_lcp (c : Status) : (s.refuse c).lcp = s.lcp := rfl
@[simp] theorem State.refuse_busReady (c : Status) : (s.refuse c).busReady = s.busReady := rfl
@[simp] theorem State.refuse_opr (c : Status) : (s.refuse c).opr = s.opr := rfl
@[simp] theorem State.refuse_ph (c : Status) : (s.refuse c).ph = s.ph := rfl
@[simp] theorem State.refuse_status (c : Status) : (s.refuse c).status = c := rfl
@[simp] theorem State.refuse_initErr (c : Status) : (s.refuse c).initErr = s.initErr := rfl
@[simp] theorem State.refuse_istep (c : Status) : (s.refuse c).istep = s.istep := rfl
@[simp] theorem State.refuse_xres (c : Status) : (s.refuse c).xres = s.xres := rfl
@[simp] theorem State.refuse_dev (c : Status) : (s.refuse c).dev = s.dev := rfl
@[simp] theorem State.refuse_reg (c : Status) : (s.refuse c).reg = s.reg := rfl
@[simp] theorem State.refuse_val (c : Status) : (s.refuse c).val = s.val := rfl
@[simp] theorem State.refuse_len (c : Status) : (s.refuse c).len = s.len := rfl
@[simp] theorem State.refuse_txbuf (c : Status) : (s.refuse c).txbuf = s.txbuf := rfl
@[simp] theorem State.refuse_rxbuf (c : Status) : (s.refuse c).rxbuf = s.rxbuf := rfl
@[simp] theorem State.refuse_ident (c : Status) : (s.refuse c).ident = s.ident := rfl
@[simp] theorem State.refuse_ax (c : Status) : (s.refuse c).ax = s.ax := rfl
@[simp] theorem State.refuse_ay (c : Status) : (s.refuse c).ay = s.ay := rfl
@[simp] theorem State.refuse_az (c : Status) : (s.refuse c).az = s.az := rfl
@[simp] theorem State.refuse_mismatchDue (c : Status) : (s.refuse c).mismatchDue = s.mismatchDue := rfl
@[simp] theorem State.refuse_trace (c : Status) : (s.refuse c).trace = s.trace := rfl
@[simp] theorem State.refuse_initAnswers (c : Status) : (s.refuse c).initAnswers = s.initAnswers := rfl
@[simp] theorem State.refuse_sendAnswers (c : Status) : (s.refuse c).sendAnswers = s.sendAnswers := rfl
@[simp] theorem State.refuse_recvAnswers (c : Status) : (s.refuse c).recvAnswers = s.recvAnswers := rfl
@[simp] theorem State.refuse_busyAnswers (c : Status) : (s.refuse c).busyAnswers = s.busyAnswers := rfl
@[simp] theorem State.refuse_transportResponds (c : Status) : (s.refuse c).transportResponds = s.transportResponds := rfl
@[simp] theorem State.refuse_delayCompletes (c : Status) : (s.refuse c).delayCompletes = s.delayCompletes := rfl
@[simp] theorem State.refuse_sinkAccepts (c : Status) : (s.refuse c).sinkAccepts = s.sinkAccepts := rfl
@[simp] theorem State.refuse_draws (c : Status) : (s.refuse c).draws = s.draws := rfl
@[simp] theorem State.refuse_issuer (c : Status) : (s.refuse c).issuer = s.issuer := rfl
@[simp] theorem State.refuse_cmds (c : Status) : (s.refuse c).cmds = s.cmds := rfl
@[simp] theorem State.refuse_rst (c : Status) : (s.refuse c).rst = s.rst := rfl

/-! ## enterOp -/

@[simp] theorem State.enterOp_lcs (o : Op) (p : Phase) : (s.enterOp o p).lcs = s.lcs := rfl
@[simp] theorem State.enterOp_lcp (o : Op) (p : Phase) : (s.enterOp o p).lcp = s.lcp := rfl
@[simp] theorem State.enterOp_busReady (o : Op) (p : Phase) : (s.enterOp o p).busReady = s.busReady := rfl
@[simp] theorem State.enterOp_opr (o : Op) (p : Phase) : (s.enterOp o p).opr = o := rfl
@[simp] theorem State.enterOp_ph (o : Op) (p : Phase) : (s.enterOp o p).ph = p := rfl
@[simp] theorem State.enterOp_status (o : Op) (p : Phase) : (s.enterOp o p).status = s.status := rfl
@[simp] theorem State.enterOp_initErr (o : Op) (p : Phase) : (s.enterOp o p).initErr = s.initErr := rfl
@[simp] theorem State.enterOp_istep (o : Op) (p : Phase) : (s.enterOp o p).istep = s.istep := rfl
@[simp] theorem State.enterOp_xres (o : Op) (p : Phase) : (s.enterOp o p).xres = s.xres := rfl
@[simp] theorem State.enterOp_dev (o : Op) (p : Phase) : (s.enterOp o p).dev = s.dev := rfl
@[simp] theorem State.enterOp_reg (o : Op) (p : Phase) : (s.enterOp o p).reg = s.reg := rfl
@[simp] theorem State.enterOp_val (o : Op) (p : Phase) : (s.enterOp o p).val = s.val := rfl
@[simp] theorem State.enterOp_len (o : Op) (p : Phase) : (s.enterOp o p).len = s.len := rfl
@[simp] theorem State.enterOp_txbuf (o : Op) (p : Phase) : (s.enterOp o p).txbuf = s.txbuf := rfl
@[simp] theorem State.enterOp_rxbuf (o : Op) (p : Phase) : (s.enterOp o p).rxbuf = s.rxbuf := rfl
@[simp] theorem State.enterOp_ident (o : Op) (p : Phase) : (s.enterOp o p).ident = s.ident := rfl
@[simp] theorem State.enterOp_ax (o : Op) (p : Phase) : (s.enterOp o p).ax = s.ax := rfl
@[simp] theorem State.enterOp_ay (o : Op) (p : Phase) : (s.enterOp o p).ay = s.ay := rfl
@[simp] theorem State.enterOp_az (o : Op) (p : Phase) : (s.enterOp o p).az = s.az := rfl
@[simp] theorem State.enterOp_mismatchDue (o : Op) (p : Phase) : (s.enterOp o p).mismatchDue = s.mismatchDue := rfl
@[simp] theorem State.enterOp_trace (o : Op) (p : Phase) : (s.enterOp o p).trace = s.trace := rfl
@[simp] theorem State.enterOp_initAnswers (o : Op) (p : Phase) : (s.enterOp o p).initAnswers = s.initAnswers := rfl
@[simp] theorem State.enterOp_sendAnswers (o : Op) (p : Phase) : (s.enterOp o p).sendAnswers = s.sendAnswers := rfl
@[simp] theorem State.enterOp_recvAnswers (o : Op) (p : Phase) : (s.enterOp o p).recvAnswers = s.recvAnswers := rfl
@[simp] theorem State.enterOp_busyAnswers (o : Op) (p : Phase) : (s.enterOp o p).busyAnswers = s.busyAnswers := rfl
@[simp] theorem State.enterOp_transportResponds (o : Op) (p : Phase) : (s.enterOp o p).transportResponds = s.transportResponds := rfl
@[simp] theorem State.enterOp_delayCompletes (o : Op) (p : Phase) : (s.enterOp o p).delayCompletes = s.delayCompletes := rfl
@[simp] theorem State.enterOp_sinkAccepts (o : Op) (p : Phase) : (s.enterOp o p).sinkAccepts = s.sinkAccepts := rfl
@[simp] theorem State.enterOp_draws (o : Op) (p : Phase) : (s.enterOp o p).draws = s.draws := rfl
@[simp] theorem State.enterOp_issuer (o : Op) (p : Phase) : (s.enterOp o p).issuer = s.issuer := rfl
@[simp] theorem State.enterOp_cmds (o : Op) (p : Phase) : (s.enterOp o p).cmds = s.cmds := rfl
@[simp] theorem State.enterOp_rst (o : Op) (p : Phase) : (s.enterOp o p).rst = s.rst := rfl

/-! ## toPhase -/

@[simp] theorem State.toPhase_lcs (p : Phase) : (s.toPhase p).lcs = s.lcs := rfl
@[simp] theorem State.toPhase_lcp (p : Phase) : (s.toPhase p).lcp = s.lcp := rfl
@[simp] theorem State.toPhase_busReady (p : Phase) : (s.toPhase p).busReady = s.busReady := rfl
@[simp] theorem State.toPhase_opr (p : Phase) : (s.toPhase p).opr = s.opr := rfl
@[simp] theorem State.toPhase_ph (p : Phase) : (s.toPhase p).ph = p := rfl
@[simp] theorem State.toPhase_status (p : Phase) : (s.toPhase p).status = s.status := rfl
@[simp] theorem State.toPhase_initErr (p : Phase) : (s.toPhase p).initErr = s.initErr := rfl
@[simp] theorem State.toPhase_istep (p : Phase) : (s.toPhase p).istep = s.istep := rfl
@[simp] theorem State.toPhase_xres (p : Phase) : (s.toPhase p).xres = s.xres := rfl
@[simp] theorem State.toPhase_dev (p : Phase) : (s.toPhase p).dev = s.dev := rfl
@[simp] theorem State.toPhase_reg (p : Phase) : (s.toPhase p).reg = s.reg := rfl
@[simp] theorem State.toPhase_val (p : Phase) : (s.toPhase p).val = s.val := rfl
@[simp] theorem State.toPhase_len (p : Phase) : (s.toPhase p).len = s.len := rfl
@[simp] theorem State.toPhase_txbuf (p : Phase) : (s.toPhase p).txbuf = s.txbuf := rfl
@[simp] theorem State.toPhase_rxbuf (p : Phase) : (s.toPhase p).rxbuf = s.rxbuf := rfl
@[simp] theorem State.toPhase_ident (p : Phase) : (s.toPhase p).ident = s.ident := rfl
@[simp] theorem State.toPhase_ax (p : Phase) : (s.toPhase p).ax = s.ax := rfl
@[simp] theorem State.toPhase_ay (p : Phase) : (s.toPhase p).ay = s.ay := rfl
@[simp] theorem State.toPhase_az (p : Phase) : (s.toPhase p).az = s.az := rfl
@[simp] theorem State.toPhase_mismatchDue (p : Phase) : (s.toPhase p).mismatchDue = s.mismatchDue := rfl
@[simp] theorem State.toPhase_trace (p : Phase) : (s.toPhase p).trace = s.trace := rfl
@[simp] theorem State.toPhase_initAnswers (p : Phase) : (s.toPhase p).initAnswers = s.initAnswers := rfl
@[simp] theorem State.toPhase_sendAnswers (p : Phase) : (s.toPhase p).sendAnswers = s.sendAnswers := rfl
@[simp] theorem State.toPhase_recvAnswers (p : Phase) : (s.toPhase p).recvAnswers = s.recvAnswers := rfl
@[simp] theorem State.toPhase_busyAnswers (p : Phase) : (s.toPhase p).busyAnswers = s.busyAnswers := rfl
@[simp] theorem State.toPhase_transportResponds (p : Phase) : (s.toPhase p).transportResponds = s.transportResponds := rfl
@[simp] theorem State.toPhase_delayCompletes (p : Phase) : (s.toPhase p).delayCompletes = s.delayCompletes := rfl
@[simp] theorem State.toPhase_sinkAccepts (p : Phase) : (s.toPhase p).sinkAccepts = s.sinkAccepts := rfl
@[simp] theorem State.toPhase_draws (p : Phase) : (s.toPhase p).draws = s.draws := rfl
@[simp] theorem State.toPhase_issuer (p : Phase) : (s.toPhase p).issuer = s.issuer := rfl
@[simp] theorem State.toPhase_cmds (p : Phase) : (s.toPhase p).cmds = s.cmds := rfl
@[simp] theorem State.toPhase_rst (p : Phase) : (s.toPhase p).rst = s.rst := rfl

/-! ## sampled -/

@[simp] theorem State.sampled_lcs : (s.sampled).lcs = s.lcs := rfl
@[simp] theorem State.sampled_lcp : (s.sampled).lcp = s.lcp := rfl
@[simp] theorem State.sampled_busReady : (s.sampled).busReady = s.busReady := rfl
@[simp] theorem State.sampled_opr : (s.sampled).opr = s.opr := rfl
@[simp] theorem State.sampled_ph : (s.sampled).ph = s.ph := rfl
@[simp] theorem State.sampled_status : (s.sampled).status = s.status := rfl
@[simp] theorem State.sampled_initErr : (s.sampled).initErr = s.initErr := rfl
@[simp] theorem State.sampled_istep : (s.sampled).istep = s.istep := rfl
@[simp] theorem State.sampled_xres : (s.sampled).xres = s.xres := rfl
@[simp] theorem State.sampled_dev : (s.sampled).dev = s.dev := rfl
@[simp] theorem State.sampled_reg : (s.sampled).reg = s.reg := rfl
@[simp] theorem State.sampled_val : (s.sampled).val = s.val := rfl
@[simp] theorem State.sampled_len : (s.sampled).len = s.len := rfl
@[simp] theorem State.sampled_txbuf : (s.sampled).txbuf = s.txbuf := rfl
@[simp] theorem State.sampled_rxbuf : (s.sampled).rxbuf = s.rxbuf := rfl
@[simp] theorem State.sampled_ident : (s.sampled).ident = s.ident := rfl
@[simp] theorem State.sampled_ax : (s.sampled).ax = s.ax := rfl
@[simp] theorem State.sampled_ay : (s.sampled).ay = s.ay := rfl
@[simp] theorem State.sampled_az : (s.sampled).az = s.az := rfl
@[simp] theorem State.sampled_mismatchDue : (s.sampled).mismatchDue = s.mismatchDue := rfl
@[simp] theorem State.sampled_trace : (s.sampled).trace = s.trace := rfl
@[simp] theorem State.sampled_initAnswers : (s.sampled).initAnswers = s.initAnswers := rfl
@[simp] theorem State.sampled_sendAnswers : (s.sampled).sendAnswers = s.sendAnswers := rfl
@[simp] theorem State.sampled_recvAnswers : (s.sampled).recvAnswers = s.recvAnswers := rfl
@[simp] theorem State.sampled_busyAnswers : (s.sampled).busyAnswers = s.busyAnswers := rfl
@[simp] theorem State.sampled_transportResponds : (s.sampled).transportResponds = s.transportResponds := rfl
@[simp] theorem State.sampled_delayCompletes : (s.sampled).delayCompletes = s.delayCompletes := rfl
@[simp] theorem State.sampled_sinkAccepts : (s.sampled).sinkAccepts = s.sinkAccepts := rfl
@[simp] theorem State.sampled_draws : (s.sampled).draws = s.draws := rfl
@[simp] theorem State.sampled_issuer : (s.sampled).issuer = s.issuer := rfl
@[simp] theorem State.sampled_cmds : (s.sampled).cmds = s.cmds := rfl
@[simp] theorem State.sampled_rst : (s.sampled).rst = s.rst.tail := rfl

/-! ## latchWrite -/

@[simp] theorem State.latchWrite_lcs (d : DevAddr) (r v : Byte) : (s.latchWrite d r v).lcs = s.lcs := rfl
@[simp] theorem State.latchWrite_lcp (d : DevAddr) (r v : Byte) : (s.latchWrite d r v).lcp = s.lcp := rfl
@[simp] theorem State.latchWrite_busReady (d : DevAddr) (r v : Byte) : (s.latchWrite d r v).busReady = s.busReady := rfl
@[simp] theorem State.latchWrite_opr (d : DevAddr) (r v : Byte) : (s.latchWrite d r v).opr = s.opr := rfl
@[simp] theorem State.latchWrite_ph (d : DevAddr) (r v : Byte) : (s.latchWrite d r v).ph = s.ph := rfl
@[simp] theorem State.latchWrite_status (d : DevAddr) (r v : Byte) : (s.latchWrite d r v).status = s.status := rfl
@[simp] theorem State.latchWrite_initErr (d : DevAddr) (r v : Byte) : (s.latchWrite d r v).initErr = s.initErr := rfl
@[simp] theorem State.latchWrite_istep (d : DevAddr) (r v : Byte) : (s.latchWrite d r v).istep = s.istep := rfl
@[simp] theorem State.latchWrite_xres (d : DevAddr) (r v : Byte) : (s.latchWrite d r v).xres = s.xres := rfl
@[simp] theorem State.latchWrite_dev (d : DevAddr) (r v : Byte) : (s.latchWrite d r v).dev = d := rfl
@[simp] theorem State.latchWrite_reg (d : DevAddr) (r v : Byte) : (s.latchWrite d r v).reg = r := rfl
@[simp] theorem State.latchWrite_val (d : DevAddr) (r v : Byte) : (s.latchWrite d r v).val = v := rfl
@[simp] theorem State.latchWrite_len (d : DevAddr) (r v : Byte) : (s.latchWrite d r v).len = s.len := rfl
@[simp] theorem State.latchWrite_txbuf (d : DevAddr) (r v : Byte) : (s.latchWrite d r v).txbuf = s.txbuf := rfl
@[simp] theorem State.latchWrite_rxbuf (d : DevAddr) (r v : Byte) : (s.latchWrite d r v).rxbuf = s.rxbuf := rfl
@[simp] theorem State.latchWrite_ident (d : DevAddr) (r v : Byte) : (s.latchWrite d r v).ident = s.ident := rfl
@[simp] theorem State.latchWrite_ax (d : DevAddr) (r v : Byte) : (s.latchWrite d r v).ax = s.ax := rfl
@[simp] theorem State.latchWrite_ay (d : DevAddr) (r v : Byte) : (s.latchWrite d r v).ay = s.ay := rfl
@[simp] theorem State.latchWrite_az (d : DevAddr) (r v : Byte) : (s.latchWrite d r v).az = s.az := rfl
@[simp] theorem State.latchWrite_mismatchDue (d : DevAddr) (r v : Byte) : (s.latchWrite d r v).mismatchDue = s.mismatchDue := rfl
@[simp] theorem State.latchWrite_trace (d : DevAddr) (r v : Byte) : (s.latchWrite d r v).trace = s.trace := rfl
@[simp] theorem State.latchWrite_initAnswers (d : DevAddr) (r v : Byte) : (s.latchWrite d r v).initAnswers = s.initAnswers := rfl
@[simp] theorem State.latchWrite_sendAnswers (d : DevAddr) (r v : Byte) : (s.latchWrite d r v).sendAnswers = s.sendAnswers := rfl
@[simp] theorem State.latchWrite_recvAnswers (d : DevAddr) (r v : Byte) : (s.latchWrite d r v).recvAnswers = s.recvAnswers := rfl
@[simp] theorem State.latchWrite_busyAnswers (d : DevAddr) (r v : Byte) : (s.latchWrite d r v).busyAnswers = s.busyAnswers := rfl
@[simp] theorem State.latchWrite_transportResponds (d : DevAddr) (r v : Byte) : (s.latchWrite d r v).transportResponds = s.transportResponds := rfl
@[simp] theorem State.latchWrite_delayCompletes (d : DevAddr) (r v : Byte) : (s.latchWrite d r v).delayCompletes = s.delayCompletes := rfl
@[simp] theorem State.latchWrite_sinkAccepts (d : DevAddr) (r v : Byte) : (s.latchWrite d r v).sinkAccepts = s.sinkAccepts := rfl
@[simp] theorem State.latchWrite_draws (d : DevAddr) (r v : Byte) : (s.latchWrite d r v).draws = s.draws := rfl
@[simp] theorem State.latchWrite_issuer (d : DevAddr) (r v : Byte) : (s.latchWrite d r v).issuer = s.issuer := rfl
@[simp] theorem State.latchWrite_cmds (d : DevAddr) (r v : Byte) : (s.latchWrite d r v).cmds = s.cmds := rfl
@[simp] theorem State.latchWrite_rst (d : DevAddr) (r v : Byte) : (s.latchWrite d r v).rst = s.rst := rfl

/-! ## latchRead -/

@[simp] theorem State.latchRead_lcs (d : DevAddr) (r n : Byte) : (s.latchRead d r n).lcs = s.lcs := rfl
@[simp] theorem State.latchRead_lcp (d : DevAddr) (r n : Byte) : (s.latchRead d r n).lcp = s.lcp := rfl
@[simp] theorem State.latchRead_busReady (d : DevAddr) (r n : Byte) : (s.latchRead d r n).busReady = s.busReady := rfl
@[simp] theorem State.latchRead_opr (d : DevAddr) (r n : Byte) : (s.latchRead d r n).opr = s.opr := rfl
@[simp] theorem State.latchRead_ph (d : DevAddr) (r n : Byte) : (s.latchRead d r n).ph = s.ph := rfl
@[simp] theorem State.latchRead_status (d : DevAddr) (r n : Byte) : (s.latchRead d r n).status = s.status := rfl
@[simp] theorem State.latchRead_initErr (d : DevAddr) (r n : Byte) : (s.latchRead d r n).initErr = s.initErr := rfl
@[simp] theorem State.latchRead_istep (d : DevAddr) (r n : Byte) : (s.latchRead d r n).istep = s.istep := rfl
@[simp] theorem State.latchRead_xres (d : DevAddr) (r n : Byte) : (s.latchRead d r n).xres = s.xres := rfl
@[simp] theorem State.latchRead_dev (d : DevAddr) (r n : Byte) : (s.latchRead d r n).dev = d := rfl
@[simp] theorem State.latchRead_reg (d : DevAddr) (r n : Byte) : (s.latchRead d r n).reg = r := rfl
@[simp] theorem State.latchRead_val (d : DevAddr) (r n : Byte) : (s.latchRead d r n).val = s.val := rfl
@[simp] theorem State.latchRead_len (d : DevAddr) (r n : Byte) : (s.latchRead d r n).len = n := rfl
@[simp] theorem State.latchRead_txbuf (d : DevAddr) (r n : Byte) : (s.latchRead d r n).txbuf = s.txbuf := rfl
@[simp] theorem State.latchRead_rxbuf (d : DevAddr) (r n : Byte) : (s.latchRead d r n).rxbuf = s.rxbuf := rfl
@[simp] theorem State.latchRead_ident (d : DevAddr) (r n : Byte) : (s.latchRead d r n).ident = s.ident := rfl
@[simp] theorem State.latchRead_ax (d : DevAddr) (r n : Byte) : (s.latchRead d r n).ax = s.ax := rfl
@[simp] theorem State.latchRead_ay (d : DevAddr) (r n : Byte) : (s.latchRead d r n).ay = s.ay := rfl
@[simp] theorem State.latchRead_az (d : DevAddr) (r n : Byte) : (s.latchRead d r n).az = s.az := rfl
@[simp] theorem State.latchRead_mismatchDue (d : DevAddr) (r n : Byte) : (s.latchRead d r n).mismatchDue = s.mismatchDue := rfl
@[simp] theorem State.latchRead_trace (d : DevAddr) (r n : Byte) : (s.latchRead d r n).trace = s.trace := rfl
@[simp] theorem State.latchRead_initAnswers (d : DevAddr) (r n : Byte) : (s.latchRead d r n).initAnswers = s.initAnswers := rfl
@[simp] theorem State.latchRead_sendAnswers (d : DevAddr) (r n : Byte) : (s.latchRead d r n).sendAnswers = s.sendAnswers := rfl
@[simp] theorem State.latchRead_recvAnswers (d : DevAddr) (r n : Byte) : (s.latchRead d r n).recvAnswers = s.recvAnswers := rfl
@[simp] theorem State.latchRead_busyAnswers (d : DevAddr) (r n : Byte) : (s.latchRead d r n).busyAnswers = s.busyAnswers := rfl
@[simp] theorem State.latchRead_transportResponds (d : DevAddr) (r n : Byte) : (s.latchRead d r n).transportResponds = s.transportResponds := rfl
@[simp] theorem State.latchRead_delayCompletes (d : DevAddr) (r n : Byte) : (s.latchRead d r n).delayCompletes = s.delayCompletes := rfl
@[simp] theorem State.latchRead_sinkAccepts (d : DevAddr) (r n : Byte) : (s.latchRead d r n).sinkAccepts = s.sinkAccepts := rfl
@[simp] theorem State.latchRead_draws (d : DevAddr) (r n : Byte) : (s.latchRead d r n).draws = s.draws := rfl
@[simp] theorem State.latchRead_issuer (d : DevAddr) (r n : Byte) : (s.latchRead d r n).issuer = s.issuer := rfl
@[simp] theorem State.latchRead_cmds (d : DevAddr) (r n : Byte) : (s.latchRead d r n).cmds = s.cmds := rfl
@[simp] theorem State.latchRead_rst (d : DevAddr) (r n : Byte) : (s.latchRead d r n).rst = s.rst := rfl

/-! ## latchSinit -/

@[simp] theorem State.latchSinit_lcs (i : Fin 3) : (s.latchSinit i).lcs = s.lcs := rfl
@[simp] theorem State.latchSinit_lcp (i : Fin 3) : (s.latchSinit i).lcp = s.lcp := rfl
@[simp] theorem State.latchSinit_busReady (i : Fin 3) : (s.latchSinit i).busReady = s.busReady := rfl
@[simp] theorem State.latchSinit_opr (i : Fin 3) : (s.latchSinit i).opr = s.opr := rfl
@[simp] theorem State.latchSinit_ph (i : Fin 3) : (s.latchSinit i).ph = s.ph := rfl
@[simp] theorem State.latchSinit_status (i : Fin 3) : (s.latchSinit i).status = s.status := rfl
@[simp] theorem State.latchSinit_initErr (i : Fin 3) : (s.latchSinit i).initErr = s.initErr := rfl
@[simp] theorem State.latchSinit_istep (i : Fin 3) : (s.latchSinit i).istep = i := rfl
@[simp] theorem State.latchSinit_xres (i : Fin 3) : (s.latchSinit i).xres = s.xres := rfl
@[simp] theorem State.latchSinit_dev (i : Fin 3) : (s.latchSinit i).dev = Config.devAddr := rfl
@[simp] theorem State.latchSinit_reg (i : Fin 3) : (s.latchSinit i).reg = sinitReg i := rfl
@[simp] theorem State.latchSinit_val (i : Fin 3) : (s.latchSinit i).val = sinitVal i := rfl
@[simp] theorem State.latchSinit_len (i : Fin 3) : (s.latchSinit i).len = s.len := rfl
@[simp] theorem State.latchSinit_txbuf (i : Fin 3) : (s.latchSinit i).txbuf = s.txbuf := rfl
@[simp] theorem State.latchSinit_rxbuf (i : Fin 3) : (s.latchSinit i).rxbuf = s.rxbuf := rfl
@[simp] theorem State.latchSinit_ident (i : Fin 3) : (s.latchSinit i).ident = s.ident := rfl
@[simp] theorem State.latchSinit_ax (i : Fin 3) : (s.latchSinit i).ax = s.ax := rfl
@[simp] theorem State.latchSinit_ay (i : Fin 3) : (s.latchSinit i).ay = s.ay := rfl
@[simp] theorem State.latchSinit_az (i : Fin 3) : (s.latchSinit i).az = s.az := rfl
@[simp] theorem State.latchSinit_mismatchDue (i : Fin 3) : (s.latchSinit i).mismatchDue = s.mismatchDue := rfl
@[simp] theorem State.latchSinit_trace (i : Fin 3) : (s.latchSinit i).trace = s.trace := rfl
@[simp] theorem State.latchSinit_initAnswers (i : Fin 3) : (s.latchSinit i).initAnswers = s.initAnswers := rfl
@[simp] theorem State.latchSinit_sendAnswers (i : Fin 3) : (s.latchSinit i).sendAnswers = s.sendAnswers := rfl
@[simp] theorem State.latchSinit_recvAnswers (i : Fin 3) : (s.latchSinit i).recvAnswers = s.recvAnswers := rfl
@[simp] theorem State.latchSinit_busyAnswers (i : Fin 3) : (s.latchSinit i).busyAnswers = s.busyAnswers := rfl
@[simp] theorem State.latchSinit_transportResponds (i : Fin 3) : (s.latchSinit i).transportResponds = s.transportResponds := rfl
@[simp] theorem State.latchSinit_delayCompletes (i : Fin 3) : (s.latchSinit i).delayCompletes = s.delayCompletes := rfl
@[simp] theorem State.latchSinit_sinkAccepts (i : Fin 3) : (s.latchSinit i).sinkAccepts = s.sinkAccepts := rfl
@[simp] theorem State.latchSinit_draws (i : Fin 3) : (s.latchSinit i).draws = s.draws := rfl
@[simp] theorem State.latchSinit_issuer (i : Fin 3) : (s.latchSinit i).issuer = s.issuer := rfl
@[simp] theorem State.latchSinit_cmds (i : Fin 3) : (s.latchSinit i).cmds = s.cmds := rfl
@[simp] theorem State.latchSinit_rst (i : Fin 3) : (s.latchSinit i).rst = s.rst := rfl

/-! ## recordInitErr -/

@[simp] theorem State.recordInitErr_lcs : (s.recordInitErr).lcs = s.lcs := rfl
@[simp] theorem State.recordInitErr_lcp : (s.recordInitErr).lcp = s.lcp := rfl
@[simp] theorem State.recordInitErr_busReady : (s.recordInitErr).busReady = s.busReady := rfl
@[simp] theorem State.recordInitErr_opr : (s.recordInitErr).opr = s.opr := rfl
@[simp] theorem State.recordInitErr_ph : (s.recordInitErr).ph = s.ph := rfl
@[simp] theorem State.recordInitErr_status : (s.recordInitErr).status = s.status := rfl
@[simp] theorem State.recordInitErr_initErr : (s.recordInitErr).initErr = withBit s.initErr s.istep (s.xres != .ok) := rfl
@[simp] theorem State.recordInitErr_istep : (s.recordInitErr).istep = s.istep := rfl
@[simp] theorem State.recordInitErr_xres : (s.recordInitErr).xres = s.xres := rfl
@[simp] theorem State.recordInitErr_dev : (s.recordInitErr).dev = s.dev := rfl
@[simp] theorem State.recordInitErr_reg : (s.recordInitErr).reg = s.reg := rfl
@[simp] theorem State.recordInitErr_val : (s.recordInitErr).val = s.val := rfl
@[simp] theorem State.recordInitErr_len : (s.recordInitErr).len = s.len := rfl
@[simp] theorem State.recordInitErr_txbuf : (s.recordInitErr).txbuf = s.txbuf := rfl
@[simp] theorem State.recordInitErr_rxbuf : (s.recordInitErr).rxbuf = s.rxbuf := rfl
@[simp] theorem State.recordInitErr_ident : (s.recordInitErr).ident = s.ident := rfl
@[simp] theorem State.recordInitErr_ax : (s.recordInitErr).ax = s.ax := rfl
@[simp] theorem State.recordInitErr_ay : (s.recordInitErr).ay = s.ay := rfl
@[simp] theorem State.recordInitErr_az : (s.recordInitErr).az = s.az := rfl
@[simp] theorem State.recordInitErr_mismatchDue : (s.recordInitErr).mismatchDue = s.mismatchDue := rfl
@[simp] theorem State.recordInitErr_trace : (s.recordInitErr).trace = s.trace := rfl
@[simp] theorem State.recordInitErr_initAnswers : (s.recordInitErr).initAnswers = s.initAnswers := rfl
@[simp] theorem State.recordInitErr_sendAnswers : (s.recordInitErr).sendAnswers = s.sendAnswers := rfl
@[simp] theorem State.recordInitErr_recvAnswers : (s.recordInitErr).recvAnswers = s.recvAnswers := rfl
@[simp] theorem State.recordInitErr_busyAnswers : (s.recordInitErr).busyAnswers = s.busyAnswers := rfl
@[simp] theorem State.recordInitErr_transportResponds : (s.recordInitErr).transportResponds = s.transportResponds := rfl
@[simp] theorem State.recordInitErr_delayCompletes : (s.recordInitErr).delayCompletes = s.delayCompletes := rfl
@[simp] theorem State.recordInitErr_sinkAccepts : (s.recordInitErr).sinkAccepts = s.sinkAccepts := rfl
@[simp] theorem State.recordInitErr_draws : (s.recordInitErr).draws = s.draws := rfl
@[simp] theorem State.recordInitErr_issuer : (s.recordInitErr).issuer = s.issuer := rfl
@[simp] theorem State.recordInitErr_cmds : (s.recordInitErr).cmds = s.cmds := rfl
@[simp] theorem State.recordInitErr_rst : (s.recordInitErr).rst = s.rst := rfl

/-! ## clearInitErr -/

@[simp] theorem State.clearInitErr_lcs : (s.clearInitErr).lcs = s.lcs := rfl
@[simp] theorem State.clearInitErr_lcp : (s.clearInitErr).lcp = s.lcp := rfl
@[simp] theorem State.clearInitErr_busReady : (s.clearInitErr).busReady = s.busReady := rfl
@[simp] theorem State.clearInitErr_opr : (s.clearInitErr).opr = s.opr := rfl
@[simp] theorem State.clearInitErr_ph : (s.clearInitErr).ph = s.ph := rfl
@[simp] theorem State.clearInitErr_status : (s.clearInitErr).status = s.status := rfl
@[simp] theorem State.clearInitErr_initErr : (s.clearInitErr).initErr = 0#3 := rfl
@[simp] theorem State.clearInitErr_istep : (s.clearInitErr).istep = s.istep := rfl
@[simp] theorem State.clearInitErr_xres : (s.clearInitErr).xres = s.xres := rfl
@[simp] theorem State.clearInitErr_dev : (s.clearInitErr).dev = s.dev := rfl
@[simp] theorem State.clearInitErr_reg : (s.clearInitErr).reg = s.reg := rfl
@[simp] theorem State.clearInitErr_val : (s.clearInitErr).val = s.val := rfl
@[simp] theorem State.clearInitErr_len : (s.clearInitErr).len = s.len := rfl
@[simp] theorem State.clearInitErr_txbuf : (s.clearInitErr).txbuf = s.txbuf := rfl
@[simp] theorem State.clearInitErr_rxbuf : (s.clearInitErr).rxbuf = s.rxbuf := rfl
@[simp] theorem State.clearInitErr_ident : (s.clearInitErr).ident = s.ident := rfl
@[simp] theorem State.clearInitErr_ax : (s.clearInitErr).ax = s.ax := rfl
@[simp] theorem State.clearInitErr_ay : (s.clearInitErr).ay = s.ay := rfl
@[simp] theorem State.clearInitErr_az : (s.clearInitErr).az = s.az := rfl
@[simp] theorem State.clearInitErr_mismatchDue : (s.clearInitErr).mismatchDue = s.mismatchDue := rfl
@[simp] theorem State.clearInitErr_trace : (s.clearInitErr).trace = s.trace := rfl
@[simp] theorem State.clearInitErr_initAnswers : (s.clearInitErr).initAnswers = s.initAnswers := rfl
@[simp] theorem State.clearInitErr_sendAnswers : (s.clearInitErr).sendAnswers = s.sendAnswers := rfl
@[simp] theorem State.clearInitErr_recvAnswers : (s.clearInitErr).recvAnswers = s.recvAnswers := rfl
@[simp] theorem State.clearInitErr_busyAnswers : (s.clearInitErr).busyAnswers = s.busyAnswers := rfl
@[simp] theorem State.clearInitErr_transportResponds : (s.clearInitErr).transportResponds = s.transportResponds := rfl
@[simp] theorem State.clearInitErr_delayCompletes : (s.clearInitErr).delayCompletes = s.delayCompletes := rfl
@[simp] theorem State.clearInitErr_sinkAccepts : (s.clearInitErr).sinkAccepts = s.sinkAccepts := rfl
@[simp] theorem State.clearInitErr_draws : (s.clearInitErr).draws = s.draws := rfl
@[simp] theorem State.clearInitErr_issuer : (s.clearInitErr).issuer = s.issuer := rfl
@[simp] theorem State.clearInitErr_cmds : (s.clearInitErr).cmds = s.cmds := rfl
@[simp] theorem State.clearInitErr_rst : (s.clearInitErr).rst = s.rst := rfl

/-! ## latchSample -/

@[simp] theorem State.latchSample_lcs : (s.latchSample).lcs = s.lcs := rfl
@[simp] theorem State.latchSample_lcp : (s.latchSample).lcp = s.lcp := rfl
@[simp] theorem State.latchSample_busReady : (s.latchSample).busReady = s.busReady := rfl
@[simp] theorem State.latchSample_opr : (s.latchSample).opr = s.opr := rfl
@[simp] theorem State.latchSample_ph : (s.latchSample).ph = s.ph := rfl
@[simp] theorem State.latchSample_status : (s.latchSample).status = s.status := rfl
@[simp] theorem State.latchSample_initErr : (s.latchSample).initErr = s.initErr := rfl
@[simp] theorem State.latchSample_istep : (s.latchSample).istep = s.istep := rfl
@[simp] theorem State.latchSample_xres : (s.latchSample).xres = s.xres := rfl
@[simp] theorem State.latchSample_dev : (s.latchSample).dev = s.dev := rfl
@[simp] theorem State.latchSample_reg : (s.latchSample).reg = s.reg := rfl
@[simp] theorem State.latchSample_val : (s.latchSample).val = s.val := rfl
@[simp] theorem State.latchSample_len : (s.latchSample).len = s.len := rfl
@[simp] theorem State.latchSample_txbuf : (s.latchSample).txbuf = s.txbuf := rfl
@[simp] theorem State.latchSample_rxbuf : (s.latchSample).rxbuf = s.rxbuf := rfl
@[simp] theorem State.latchSample_ident : (s.latchSample).ident = s.ident := rfl
@[simp] theorem State.latchSample_ax : (s.latchSample).ax = decodeAxis s.rxbuf[0] s.rxbuf[1] := rfl
@[simp] theorem State.latchSample_ay : (s.latchSample).ay = decodeAxis s.rxbuf[2] s.rxbuf[3] := rfl
@[simp] theorem State.latchSample_az : (s.latchSample).az = decodeAxis s.rxbuf[4] s.rxbuf[5] := rfl
@[simp] theorem State.latchSample_mismatchDue : (s.latchSample).mismatchDue = s.mismatchDue := rfl
@[simp] theorem State.latchSample_trace : (s.latchSample).trace = s.trace := rfl
@[simp] theorem State.latchSample_initAnswers : (s.latchSample).initAnswers = s.initAnswers := rfl
@[simp] theorem State.latchSample_sendAnswers : (s.latchSample).sendAnswers = s.sendAnswers := rfl
@[simp] theorem State.latchSample_recvAnswers : (s.latchSample).recvAnswers = s.recvAnswers := rfl
@[simp] theorem State.latchSample_busyAnswers : (s.latchSample).busyAnswers = s.busyAnswers := rfl
@[simp] theorem State.latchSample_transportResponds : (s.latchSample).transportResponds = s.transportResponds := rfl
@[simp] theorem State.latchSample_delayCompletes : (s.latchSample).delayCompletes = s.delayCompletes := rfl
@[simp] theorem State.latchSample_sinkAccepts : (s.latchSample).sinkAccepts = s.sinkAccepts := rfl
@[simp] theorem State.latchSample_draws : (s.latchSample).draws = s.draws := rfl
@[simp] theorem State.latchSample_issuer : (s.latchSample).issuer = s.issuer := rfl
@[simp] theorem State.latchSample_cmds : (s.latchSample).cmds = s.cmds := rfl
@[simp] theorem State.latchSample_rst : (s.latchSample).rst = s.rst := rfl

/-! ## nextLcp -/

@[simp] theorem State.nextLcp_lcs : (s.nextLcp).lcs = s.lcs := rfl
@[simp] theorem State.nextLcp_lcp : (s.nextLcp).lcp = s.lcp + 1 := rfl
@[simp] theorem State.nextLcp_busReady : (s.nextLcp).busReady = s.busReady := rfl
@[simp] theorem State.nextLcp_opr : (s.nextLcp).opr = s.opr := rfl
@[simp] theorem State.nextLcp_ph : (s.nextLcp).ph = s.ph := rfl
@[simp] theorem State.nextLcp_status : (s.nextLcp).status = s.status := rfl
@[simp] theorem State.nextLcp_initErr : (s.nextLcp).initErr = s.initErr := rfl
@[simp] theorem State.nextLcp_istep : (s.nextLcp).istep = s.istep := rfl
@[simp] theorem State.nextLcp_xres : (s.nextLcp).xres = s.xres := rfl
@[simp] theorem State.nextLcp_dev : (s.nextLcp).dev = s.dev := rfl
@[simp] theorem State.nextLcp_reg : (s.nextLcp).reg = s.reg := rfl
@[simp] theorem State.nextLcp_val : (s.nextLcp).val = s.val := rfl
@[simp] theorem State.nextLcp_len : (s.nextLcp).len = s.len := rfl
@[simp] theorem State.nextLcp_txbuf : (s.nextLcp).txbuf = s.txbuf := rfl
@[simp] theorem State.nextLcp_rxbuf : (s.nextLcp).rxbuf = s.rxbuf := rfl
@[simp] theorem State.nextLcp_ident : (s.nextLcp).ident = s.ident := rfl
@[simp] theorem State.nextLcp_ax : (s.nextLcp).ax = s.ax := rfl
@[simp] theorem State.nextLcp_ay : (s.nextLcp).ay = s.ay := rfl
@[simp] theorem State.nextLcp_az : (s.nextLcp).az = s.az := rfl
@[simp] theorem State.nextLcp_mismatchDue : (s.nextLcp).mismatchDue = s.mismatchDue := rfl
@[simp] theorem State.nextLcp_trace : (s.nextLcp).trace = s.trace := rfl
@[simp] theorem State.nextLcp_initAnswers : (s.nextLcp).initAnswers = s.initAnswers := rfl
@[simp] theorem State.nextLcp_sendAnswers : (s.nextLcp).sendAnswers = s.sendAnswers := rfl
@[simp] theorem State.nextLcp_recvAnswers : (s.nextLcp).recvAnswers = s.recvAnswers := rfl
@[simp] theorem State.nextLcp_busyAnswers : (s.nextLcp).busyAnswers = s.busyAnswers := rfl
@[simp] theorem State.nextLcp_transportResponds : (s.nextLcp).transportResponds = s.transportResponds := rfl
@[simp] theorem State.nextLcp_delayCompletes : (s.nextLcp).delayCompletes = s.delayCompletes := rfl
@[simp] theorem State.nextLcp_sinkAccepts : (s.nextLcp).sinkAccepts = s.sinkAccepts := rfl
@[simp] theorem State.nextLcp_draws : (s.nextLcp).draws = s.draws := rfl
@[simp] theorem State.nextLcp_issuer : (s.nextLcp).issuer = s.issuer := rfl
@[simp] theorem State.nextLcp_cmds : (s.nextLcp).cmds = s.cmds := rfl
@[simp] theorem State.nextLcp_rst : (s.nextLcp).rst = s.rst := rfl

/-! ## enterLcs -/

@[simp] theorem State.enterLcs_lcs (l : LcState) : (s.enterLcs l).lcs = l := rfl
@[simp] theorem State.enterLcs_lcp (l : LcState) : (s.enterLcs l).lcp = 0 := rfl
@[simp] theorem State.enterLcs_busReady (l : LcState) : (s.enterLcs l).busReady = s.busReady := rfl
@[simp] theorem State.enterLcs_opr (l : LcState) : (s.enterLcs l).opr = s.opr := rfl
@[simp] theorem State.enterLcs_ph (l : LcState) : (s.enterLcs l).ph = s.ph := rfl
@[simp] theorem State.enterLcs_status (l : LcState) : (s.enterLcs l).status = s.status := rfl
@[simp] theorem State.enterLcs_initErr (l : LcState) : (s.enterLcs l).initErr = s.initErr := rfl
@[simp] theorem State.enterLcs_istep (l : LcState) : (s.enterLcs l).istep = s.istep := rfl
@[simp] theorem State.enterLcs_xres (l : LcState) : (s.enterLcs l).xres = s.xres := rfl
@[simp] theorem State.enterLcs_dev (l : LcState) : (s.enterLcs l).dev = s.dev := rfl
@[simp] theorem State.enterLcs_reg (l : LcState) : (s.enterLcs l).reg = s.reg := rfl
@[simp] theorem State.enterLcs_val (l : LcState) : (s.enterLcs l).val = s.val := rfl
@[simp] theorem State.enterLcs_len (l : LcState) : (s.enterLcs l).len = s.len := rfl
@[simp] theorem State.enterLcs_txbuf (l : LcState) : (s.enterLcs l).txbuf = s.txbuf := rfl
@[simp] theorem State.enterLcs_rxbuf (l : LcState) : (s.enterLcs l).rxbuf = s.rxbuf := rfl
@[simp] theorem State.enterLcs_ident (l : LcState) : (s.enterLcs l).ident = s.ident := rfl
@[simp] theorem State.enterLcs_ax (l : LcState) : (s.enterLcs l).ax = s.ax := rfl
@[simp] theorem State.enterLcs_ay (l : LcState) : (s.enterLcs l).ay = s.ay := rfl
@[simp] theorem State.enterLcs_az (l : LcState) : (s.enterLcs l).az = s.az := rfl
@[simp] theorem State.enterLcs_mismatchDue (l : LcState) : (s.enterLcs l).mismatchDue = s.mismatchDue := rfl
@[simp] theorem State.enterLcs_trace (l : LcState) : (s.enterLcs l).trace = s.trace := rfl
@[simp] theorem State.enterLcs_initAnswers (l : LcState) : (s.enterLcs l).initAnswers = s.initAnswers := rfl
@[simp] theorem State.enterLcs_sendAnswers (l : LcState) : (s.enterLcs l).sendAnswers = s.sendAnswers := rfl
@[simp] theorem State.enterLcs_recvAnswers (l : LcState) : (s.enterLcs l).recvAnswers = s.recvAnswers := rfl
@[simp] theorem State.enterLcs_busyAnswers (l : LcState) : (s.enterLcs l).busyAnswers = s.busyAnswers := rfl
@[simp] theorem State.enterLcs_transportResponds (l : LcState) : (s.enterLcs l).transportResponds = s.transportResponds := rfl
@[simp] theorem State.enterLcs_delayCompletes (l : LcState) : (s.enterLcs l).delayCompletes = s.delayCompletes := rfl
@[simp] theorem State.enterLcs_sinkAccepts (l : LcState) : (s.enterLcs l).sinkAccepts = s.sinkAccepts := rfl
@[simp] theorem State.enterLcs_draws (l : LcState) : (s.enterLcs l).draws = s.draws := rfl
@[simp] theorem State.enterLcs_issuer (l : LcState) : (s.enterLcs l).issuer = s.issuer := rfl
@[simp] theorem State.enterLcs_cmds (l : LcState) : (s.enterLcs l).cmds = s.cmds := rfl
@[simp] theorem State.enterLcs_rst (l : LcState) : (s.enterLcs l).rst = s.rst := rfl

/-! ## asked: which collaborator, and what it leaves in every field but the three lists -/

@[simp] theorem State.asked_tInit (hz : Nat) (r : InitResult) : s.asked (.tInit hz r) = s.askedTransport := rfl
@[simp] theorem State.asked_tSend (d : DevAddr) (bs : List Byte) (ns : Bool) (r : XferResult) : s.asked (.tSend d bs ns r) = s.askedTransport := rfl
@[simp] theorem State.asked_tRecv (d : DevAddr) (n : Nat) (r : XferResult) (data : List Byte) : s.asked (.tRecv d n r data) = s.askedTransport := rfl
@[simp] theorem State.asked_tBusy (b : Bool) : s.asked (.tBusy b) = s.askedTransport := rfl
@[simp] theorem State.asked_delay (ms : Nat) : s.asked (.delay ms) = s.askedDelay := rfl
@[simp] theorem State.asked_emit (r : Report) : s.asked (.emit r) = s.askedSink := rfl
@[simp] theorem State.asked_lcs (e : Event) : (s.asked e).lcs = s.lcs := by cases e <;> rfl
@[simp] theorem State.asked_lcp (e : Event) : (s.asked e).lcp = s.lcp := by cases e <;> rfl
@[simp] theorem State.asked_busReady (e : Event) : (s.asked e).busReady = s.busReady := by cases e <;> rfl
@[simp] theorem State.asked_opr (e : Event) : (s.asked e).opr = s.opr := by cases e <;> rfl
@[simp] theorem State.asked_ph (e : Event) : (s.asked e).ph = s.ph := by cases e <;> rfl
@[simp] theorem State.asked_status (e : Event) : (s.asked e).status = s.status := by cases e <;> rfl
@[simp] theorem State.asked_initErr (e : Event) : (s.asked e).initErr = s.initErr := by cases e <;> rfl
@[simp] theorem State.asked_istep (e : Event) : (s.asked e).istep = s.istep := by cases e <;> rfl
@[simp] theorem State.asked_xres (e : Event) : (s.asked e).xres = s.xres := by cases e <;> rfl
@[simp] theorem State.asked_dev (e : Event) : (s.asked e).dev = s.dev := by cases e <;> rfl
@[simp] theorem State.asked_reg (e : Event) : (s.asked e).reg = s.reg := by cases e <;> rfl
@[simp] theorem State.asked_val (e : Event) : (s.asked e).val = s.val := by cases e <;> rfl
@[simp] theorem State.asked_len (e : Event) : (s.asked e).len = s.len := by cases e <;> rfl
@[simp] theorem State.asked_txbuf (e : Event) : (s.asked e).txbuf = s.txbuf := by cases e <;> rfl
@[simp] theorem State.asked_rxbuf (e : Event) : (s.asked e).rxbuf = s.rxbuf := by cases e <;> rfl
@[simp] theorem State.asked_ident (e : Event) : (s.asked e).ident = s.ident := by cases e <;> rfl
@[simp] theorem State.asked_ax (e : Event) : (s.asked e).ax = s.ax := by cases e <;> rfl
@[simp] theorem State.asked_ay (e : Event) : (s.asked e).ay = s.ay := by cases e <;> rfl
@[simp] theorem State.asked_az (e : Event) : (s.asked e).az = s.az := by cases e <;> rfl
@[simp] theorem State.asked_mismatchDue (e : Event) : (s.asked e).mismatchDue = s.mismatchDue := by cases e <;> rfl
@[simp] theorem State.asked_trace (e : Event) : (s.asked e).trace = s.trace := by cases e <;> rfl
@[simp] theorem State.asked_initAnswers (e : Event) : (s.asked e).initAnswers = s.initAnswers := by cases e <;> rfl
@[simp] theorem State.asked_sendAnswers (e : Event) : (s.asked e).sendAnswers = s.sendAnswers := by cases e <;> rfl
@[simp] theorem State.asked_recvAnswers (e : Event) : (s.asked e).recvAnswers = s.recvAnswers := by cases e <;> rfl
@[simp] theorem State.asked_busyAnswers (e : Event) : (s.asked e).busyAnswers = s.busyAnswers := by cases e <;> rfl
@[simp] theorem State.asked_draws (e : Event) : (s.asked e).draws = s.draws + 1 := by cases e <;> rfl
@[simp] theorem State.asked_issuer (e : Event) : (s.asked e).issuer = s.issuer := by cases e <;> rfl
@[simp] theorem State.asked_cmds (e : Event) : (s.asked e).cmds = s.cmds := by cases e <;> rfl
@[simp] theorem State.asked_rst (e : Event) : (s.asked e).rst = s.rst := by cases e <;> rfl

end Sys2Proof.Machine
end

