-- ==== Sys2Proof/Laws/Ops.lean ====
section
/-! SUPPORT. What each shared operation can do: one spec lemma per operation, cited instead of unfolding it. -/

namespace Sys2Proof.Machine

/-! ## Buffers -/

/-- The bytes of a filled receive buffer (10_state.md R29). -/
@[simp] theorem getElem_fillBytes (v : Vector Byte 255) (n : Nat) (f : Nat → Byte) (j : Nat) (h : j < 255) :
    (fillBytes v n f)[j] = if j < n then f j else v[j] := by
  induction n with
  | zero => simp [fillBytes]
  | succ k ih =>
    simp only [fillBytes, Vector.getElem_setIfInBounds, ih]
    by_cases hk : k = j
    · subst hk; simp
    · have : j < k + 1 ↔ j < k := by omega
      simp [hk, this]

/-- The first `n` bytes of a buffer filled with `n` bytes are those bytes. -/
theorem take_fillBytes (v : Vector Byte 255) (n : Nat) (hn : n ≤ 255) (f : Nat → Byte) :
    (fillBytes v n f).toList.take n = (List.range n).map f := by
  apply List.ext_getElem
  · simp; omega
  · intro j h1 h2
    have hj : j < n := by simpa using h2
    have := getElem_fillBytes v n f j (by omega)
    simp only [hj, if_true] at this
    simpa using this

/-- A two-byte frame buffer with both bytes written. -/
theorem txbuf_set_both (v : Vector Byte 2) (a b : Byte) : (v.set 0 a).set 1 b = #v[a, b] := by
  apply Vector.ext
  intro j hj
  match j, hj with
  | 0, _ => simp
  | 1, _ => simp

/-- A two-byte frame buffer with its first byte written. -/
theorem txbuf_set_first (v : Vector Byte 2) (a : Byte) : v.set 0 a = #v[a, v[1]] := by
  apply Vector.ext
  intro j hj
  match j, hj with
  | 0, _ => simp
  | 1, _ => simp

/-- The first byte of a receive buffer, as a list (10_state.md R29). -/
theorem toList_take_one (v : Vector Byte 255) : v.toList.take 1 = [v[0]] := by
  apply List.ext_getElem (by simp)
  intro j h1 h2
  have hj : j < 1 := by simpa using h2
  match j, hj with
  | 0, _ => simp

/-- The six bytes of the data block, as a list (R29, 30_encoding.md R78). -/
theorem toList_take_six (v : Vector Byte 255) : v.toList.take 6 = [v[0], v[1], v[2], v[3], v[4], v[5]] := by
  apply List.ext_getElem (by simp)
  intro j h1 h2
  have hj : j < 6 := by simpa using h2
  match j, hj with
  | 0, _ | 1, _ | 2, _ | 3, _ | 4, _ | 5, _ => simp

/-- Writing the frame buffer leaves the send's answer as it is. -/
@[simp] theorem sendAnswer_setTx0 (s : State) (b : Byte) : (s.setTx0 b).sendAnswer = s.sendAnswer := rfl

/-- Writing the frame buffer leaves the send's answer as it is. -/
@[simp] theorem sendAnswer_setTx1 (s : State) (b : Byte) : (s.setTx1 b).sendAnswer = s.sendAnswer := rfl

/-! ## The bits of INITERR -/

/-- Setting one bit changes that bit only (R25). -/
theorem getLsbD_withBit (v : BitVec 3) (i : Fin 3) (b : Bool) (j : Nat) :
    (withBit v i b).getLsbD j = if j = i.val then b else v.getLsbD j := by
  match j with
  | 0 => revert v i b; decide
  | 1 => revert v i b; decide
  | 2 => revert v i b; decide
  | j + 3 =>
    have : ¬ (j + 3 = i.val) := by omega
    simp [this, BitVec.getLsbD_of_ge]

/-! ## The decoder's arithmetic -/

/-- The shift and the OR join the two bytes (42_sensor_driver.md R147, R148). -/
theorem decodeAxis_eq_append (low high : Byte) : decodeAxis low high = high ++ low := by
  apply BitVec.eq_of_toNat_eq
  have hl := low.isLt
  have hh := high.isLt
  simp only [decodeAxis, BitVec.toNat_or, BitVec.toNat_shiftLeft, BitVec.truncate_eq_setWidth, BitVec.toNat_setWidth,
    BitVec.toNat_append]
  rw [Nat.mod_eq_of_lt (show high.toNat < 2 ^ 16 by omega), Nat.mod_eq_of_lt (show low.toNat < 2 ^ 16 by omega),
    Nat.mod_eq_of_lt (by rw [Nat.shiftLeft_eq]; omega)]

/-! ## Admission and the busy-poll -/

/-- An instruction takes a step only when no operation is in progress or it is the one; otherwise nothing changes
(41_register_access.md R120). -/
theorem whenFree_cases {op : Op} {start : State → State} {resume : State → Host.Outcome State Fault Refusal}
    {s : State} {o : Host.Outcome State Fault Refusal} (h : whenFree op start resume s = o) :
    (s.opr = .none ∧ o = .next (start s)) ∨ (s.opr ≠ .none ∧ s.opr = op ∧ resume s = o) ∨
      (s.opr ≠ .none ∧ s.opr ≠ op ∧ o = .next s) := by
  unfold whenFree at h
  by_cases h0 : s.opr = .none
  · exact .inl ⟨h0, by simpa [h0] using h.symm⟩
  · by_cases h1 : s.opr = op
    · exact .inr (.inl ⟨h0, h1, by simpa [h0, ← h1] using h⟩)
    · exact .inr (.inr ⟨h0, h1, by simpa [h0, h1] using h.symm⟩)

/-- With no operation in progress an instruction begins. -/
theorem whenFree_free {op : Op} {start : State → State} {resume : State → Host.Outcome State Fault Refusal}
    {s : State} (h : s.opr = .none) : whenFree op start resume s = .next (start s) := by simp [whenFree, h]

/-- The operation in progress is resumed. -/
theorem whenFree_busy {op : Op} {start : State → State} {resume : State → Host.Outcome State Fault Refusal}
    {s : State} (h : s.opr = op) (h0 : op ≠ .none) : whenFree op start resume s = resume s := by
  simp [whenFree, h, h0]

/-- The bus is ready and the operation begins, or it is refused (R120 (2)). -/
theorem admitBus_cases (start : State → State) (s : State) :
    (s.busReady = true ∧ admitBus start s = start s) ∨
      (s.busReady = false ∧ admitBus start s = s.refuse .notReady) := by
  cases h : s.busReady <;> simp [admitBus, h]

/-- A poll answers true and is repeated, or answers false and `done` follows (40_bus_transport.md R105). -/
theorem pollThen_cases (done : State → State) (s : State) :
    (s.busyAnswer = true ∧ pollThen done s = s.tIsBusy) ∨
      (s.busyAnswer = false ∧ pollThen done s = done s.tIsBusy) := by
  cases h : s.busyAnswer <;> simp [pollThen, h]

/-- A poll is `polled` with the answer. -/
theorem tIsBusy_eq (s : State) {b : Bool} (h : s.busyAnswer = b) : s.tIsBusy = s.polled b := by
  subst h; rfl

/-! ## The phases of an access -/

/-- Everything a step of a read access can do (41_register_access.md R122). -/
theorem readPhase_cases {finish : State → State} {s t : State} (h : readPhase finish s = .next t) :
    (s.ph = .aSend ∧ t = sendAddressFrame s) ∨ (s.ph = .aPoll ∧ t = pollThen (addressPhaseDone finish) s) ∨
      (s.ph = .bRecv ∧ t = receiveBytes s) ∨ (s.ph = .bPoll ∧ t = pollThen finish s) := by
  unfold readPhase at h
  cases hp : s.ph <;> simp [hp] at h <;> simp [h]

/-- Everything a step of WRREG in progress can do (R121). -/
theorem wrregPhase_cases {s t : State} (h : wrregPhase s = .next t) :
    (s.ph = .wSend ∧ t = sendWriteFrame s) ∨ (s.ph = .wPoll ∧ t = pollThen returnXres s) := by
  unfold wrregPhase at h
  cases hp : s.ph <;> simp [hp] at h <;> simp [h]

/-- Everything a step of SINIT in progress can do (42_sensor_driver.md R141). -/
theorem sinitPhase_cases {s t : State} (h : sinitPhase s = .next t) :
    (s.ph = .wSend ∧ t = sendWriteFrame s) ∨
      (s.ph = .wPoll ∧ t = pollThen (fun u => u.recordInitErr.toPhase .sDelay) s) ∨
      (s.ph = .sDelay ∧ t = afterSettle (s.wait Config.settleMs)) := by
  unfold sinitPhase at h
  cases hp : s.ph <;> simp [hp] at h <;> simp [h]

/-! ## Waiting for a response (40_bus_transport.md R109) -/

/-- A step that adds nothing to the trace has no event. -/
theorem newEvent_none {s t : State} (h : t.trace = s.trace) : newEvent s t = none := by simp [newEvent, h]

/-- The event of a step is what it adds to the trace. -/
theorem newEvent_some {s t : State} {e : Event} (h : t.trace = e :: s.trace) : newEvent s t = some e := by
  simp [newEvent, h]

/-- A step with no event is taken. -/
theorem awaitResponse_silent {s t : State} (h : t.trace = s.trace) : awaitResponse s t = t := by
  simp [awaitResponse, newEvent_none h]

/-- A step whose request is responded to is taken. -/
theorem awaitResponse_answered {s t : State} {e : Event} (h : t.trace = e :: s.trace) (hr : s.responds e = true) :
    awaitResponse s t = t.asked e := by
  simp [awaitResponse, newEvent_some h, hr]

/-- A step whose request is not responded to has not happened. -/
theorem awaitResponse_stuck {s t : State} {e : Event} (h : t.trace = e :: s.trace) (hr : s.responds e = false) :
    awaitResponse s t = s.asked e := by
  simp [awaitResponse, newEvent_some h, hr]

/-- Everything waiting for the response can do. -/
theorem awaitResponse_cases (s t : State) :
    (newEvent s t = none ∧ awaitResponse s t = t) ∨
      ∃ e, newEvent s t = some e ∧
        ((s.responds e = true ∧ awaitResponse s t = t.asked e) ∨
          (s.responds e = false ∧ awaitResponse s t = s.asked e)) := by
  unfold awaitResponse
  cases h : newEvent s t with
  | none => exact .inl ⟨rfl, rfl⟩
  | some e => refine .inr ⟨e, rfl, ?_⟩; cases hr : s.responds e <;> simp [hr]

/-- What holds of both states and survives an asking holds after waiting for the response. -/
theorem awaitResponse_keeps {P : State → Prop} {s t : State} (hs : P s) (ht : P t) (ha : ∀ u e, P u → P (u.asked e)) :
    P (awaitResponse s t) := by
  rcases awaitResponse_cases s t with ⟨_, h⟩ | ⟨e, _, ⟨_, h⟩ | ⟨_, h⟩⟩ <;> rw [h]
  · exact ht
  · exact ha t e ht
  · exact ha s e hs

/-- A next state that waits for its response comes from a next state. -/
theorem onceAnswered_next {s t : State} {o : Host.Outcome State Fault Refusal} (h : onceAnswered s o = .next t) :
    ∃ u, o = .next u ∧ t = awaitResponse s u := by
  cases o with
  | next u => simp only [onceAnswered, Host.Outcome.next.injEq] at h; exact ⟨u, rfl, h.symm⟩
  | fault r => cases h
  | refused r => cases h

/-! ## The step -/

/-- Everything a step can do: a reset, or, once answered, the step of the operation in progress, the Loop Controller's
turn, or the command port's. -/
theorem step_cases (s : State) :
    (s.rstSample = true ∧ step s = .next s.sampled.resetBlock) ∨
    (s.rstSample = false ∧
      ((s.opr ≠ .none ∧ ∃ i, s.inProgress = some i ∧ i.op = s.opr ∧
          step s = onceAnswered s.sampled (exec i s.sampled)) ∨
      (s.opr = .none ∧ s.issuer = .loopController ∧ step s = onceAnswered s.sampled (lcStep s.sampled)) ∨
      (s.opr = .none ∧ s.issuer = .commandPort ∧ step s = onceAnswered s.sampled (portStep s.sampled)))) := by
  cases hr : s.rstSample
  · refine .inr ⟨rfl, ?_⟩
    cases ho : s.opr <;> cases hi : s.issuer <;>
      simp [step, hr, runStep, State.inProgress, ho, hi, Instr.op]
  · exact .inl ⟨rfl, by simp [step, hr]⟩

end Sys2Proof.Machine
end

