-- ==== Sys2Proof/Laws/Exec.lean ====
section
/-! SUPPORT. Everything one step of an instruction can do: the one inversion of exec, from which claims about all
instructions follow by cases. -/

namespace Sys2Proof.Machine

/-! ## Each meaning over the shared operations -/

theorem exec_binit (s : State) : exec .binit s =
    whenFree .binit (fun s => if s.busReady then s.refuse .illegal else initBus s) (fun _ => .fault .noRule) s := rfl

theorem exec_wrreg (dev : DevAddr) (reg val : Byte) (s : State) : exec (.wrreg dev reg val) s =
    whenFree .wrreg (admitBus fun s => (s.latchWrite dev reg val).enterOp .wrreg .wSend) wrregPhase s := rfl

theorem exec_rdregs (dev : DevAddr) (reg len : Byte) (s : State) : exec (.rdregs dev reg len) s =
    whenFree .rdregs (admitBus (beginRdregs dev reg len)) (readPhase returnXres) s := rfl

theorem exec_rdid (s : State) : exec .rdid s =
    whenFree .rdid (admitBus fun s => (s.latchRead Config.devAddr Config.regDevid 1#8).enterOp .rdid .aSend)
      (readPhase finishRdid) s := rfl

theorem exec_sinit (s : State) : exec .sinit s =
    whenFree .sinit (admitBus fun s => (s.clearInitErr.latchSinit 0).enterOp .sinit .wSend) sinitPhase s := rfl

theorem exec_rdsmp (s : State) : exec .rdsmp s =
    whenFree .rdsmp
      (admitBus fun s => (s.latchRead Config.devAddr Config.regDatax0 Config.sampleLen).enterOp .rdsmp .aSend)
      (readPhase finishRdsmp) s := rfl

theorem exec_decode (s : State) : exec .decode s =
    whenFree .decode (fun s => s.latchSample.ret .ok) (fun _ => .fault .noRule) s := rfl

/-- An answer that is not OK is returned as `E_TRANSFER` (60_exceptions.md R200). -/
theorem xferStatus_error {x : XferResult} (h : x ≠ .ok) : xferStatus x = .transfer := by
  cases x
  · exact absurd rfl h
  · rfl

/-! ## The inversion -/

/-- `ExecStep s i t`: one of the ways in which a step of instruction `i` leads from `s` to `t`. -/
inductive ExecStep (s : State) : Instr → State → Prop where
  /-- Another operation is in progress: the word is not taken (R120). -/
  | notTaken (i : Instr) : s.opr ≠ .none → s.opr ≠ i.op → ExecStep s i s
  /-- The bus is not ready (R120). -/
  | notReady (i : Instr) : s.opr = .none → s.busReady = false → i.op ≠ .binit → i.op ≠ .decode →
      ExecStep s i (s.refuse .notReady)
  /-- A repeated BINIT (R106). -/
  | initAgain : s.opr = .none → s.busReady = true → ExecStep s .binit (s.refuse .illegal)
  /-- A BINIT that succeeds (R106). -/
  | initOk : s.opr = .none → s.busReady = false → s.initAnswer = .ok →
      ExecStep s .binit ({ s.tInit Config.busHz with busReady := true }.ret .ok)
  /-- A BINIT that fails (R106). -/
  | initFail : s.opr = .none → s.busReady = false → s.initAnswer ≠ .ok →
      ExecStep s .binit ((s.tInit Config.busHz).ret (initStatus s.initAnswer))
  /-- DECODE (R147). -/
  | decode : s.opr = .none → ExecStep s .decode (s.latchSample.ret .ok)
  /-- WRREG begins (R121). -/
  | wrreg (dev : DevAddr) (reg val : Byte) : s.opr = .none → s.busReady = true →
      ExecStep s (.wrreg dev reg val) ((s.latchWrite dev reg val).enterOp .wrreg .wSend)
  /-- RDREGS of no bytes (R123). -/
  | rdregsZero (dev : DevAddr) (reg : Byte) : s.opr = .none → s.busReady = true →
      ExecStep s (.rdregs dev reg 0) ((s.latchRead dev reg 0).ret .ok)
  /-- RDREGS begins (R122). -/
  | rdregs (dev : DevAddr) (reg len : Byte) : s.opr = .none → s.busReady = true → len ≠ 0 →
      ExecStep s (.rdregs dev reg len) ((s.latchRead dev reg len).enterOp .rdregs .aSend)
  /-- RDID begins (R144). -/
  | rdid : s.opr = .none → s.busReady = true →
      ExecStep s .rdid ((s.latchRead Config.devAddr Config.regDevid 1#8).enterOp .rdid .aSend)
  /-- RDSMP begins (R146). -/
  | rdsmp : s.opr = .none → s.busReady = true →
      ExecStep s .rdsmp ((s.latchRead Config.devAddr Config.regDatax0 Config.sampleLen).enterOp .rdsmp .aSend)
  /-- SINIT begins (R141). -/
  | sinit : s.opr = .none → s.busReady = true →
      ExecStep s .sinit ((s.clearInitErr.latchSinit 0).enterOp .sinit .wSend)
  /-- W_SEND (R121, R141). -/
  | writeSent (i : Instr) : i.op = .wrreg ∨ i.op = .sinit → s.opr = i.op → s.ph = .wSend →
      ExecStep s i (sendWriteFrame s)
  /-- A_SEND (R122). -/
  | addressSent (i : Instr) : opReads i.op = true → s.opr = i.op → s.ph = .aSend →
      ExecStep s i (sendAddressFrame s)
  /-- B_RECV that succeeds (R122). -/
  | received (i : Instr) : opReads i.op = true → s.opr = i.op → s.ph = .bRecv → s.recvAnswer = .ok →
      ExecStep s i (((s.tReceive s.len.toNat s.dev).fillRx s.len.toNat s.recvByte).toPhase .bPoll)
  /-- B_RECV that fails (R122). -/
  | receiveFailed (i : Instr) : opReads i.op = true → s.opr = i.op → s.ph = .bRecv → s.recvAnswer ≠ .ok →
      ExecStep s i (((s.tReceive s.len.toNat s.dev).undefineRx s.len.toNat).toPhase .bPoll)
  /-- The bus is busy (R105). -/
  | busy (i : Instr) : s.opr = i.op → opHasPhase i.op s.ph = true → s.ph.polls = true → s.busyAnswer = true →
      ExecStep s i s.tIsBusy
  /-- WRREG returns (R121). -/
  | wrregReturn (dev : DevAddr) (reg val : Byte) : s.opr = .wrreg → s.ph = .wPoll → s.busyAnswer = false →
      ExecStep s (.wrreg dev reg val) (s.tIsBusy.ret (xferStatus s.xres))
  /-- A write of SINIT is over (R141). -/
  | writeRecorded : s.opr = .sinit → s.ph = .wPoll → s.busyAnswer = false →
      ExecStep s .sinit (s.tIsBusy.recordInitErr.toPhase .sDelay)
  /-- The delay before the next write of SINIT (R141). -/
  | settled : s.opr = .sinit → s.ph = .sDelay → s.istep ≠ 2 →
      ExecStep s .sinit (((s.wait Config.settleMs).latchSinit (s.istep + 1)).toPhase .wSend)
  /-- The last delay, and SINIT returns (R141). -/
  | sinitReturn : s.opr = .sinit → s.ph = .sDelay → s.istep = 2 →
      ExecStep s .sinit ((s.wait Config.settleMs).ret (sinitStatus s.initErr))
  /-- Phase (a) succeeded (R122). -/
  | addressAccepted (i : Instr) : opReads i.op = true → s.opr = i.op → s.ph = .aPoll → s.busyAnswer = false →
      s.xres = .ok → ExecStep s i (s.tIsBusy.toPhase .bRecv)
  /-- The short-circuit of RDREGS (R124). -/
  | rdregsShort (dev : DevAddr) (reg len : Byte) : s.opr = .rdregs → s.ph = .aPoll → s.busyAnswer = false →
      s.xres ≠ .ok → ExecStep s (.rdregs dev reg len) ((s.tIsBusy.undefineRx s.len.toNat).ret .transfer)
  /-- The short-circuit of RDID (R144). -/
  | rdidShort : s.opr = .rdid → s.ph = .aPoll → s.busyAnswer = false → s.xres ≠ .ok →
      ExecStep s .rdid ((s.tIsBusy.undefineRx s.len.toNat).undefineIdent.ret .transfer)
  /-- The short-circuit of RDSMP (R146). -/
  | rdsmpShort : s.opr = .rdsmp → s.ph = .aPoll → s.busyAnswer = false → s.xres ≠ .ok →
      ExecStep s .rdsmp ((s.tIsBusy.undefineRx s.len.toNat).undefineAxes.ret .transfer)
  /-- RDREGS returns (R122). -/
  | rdregsReturn (dev : DevAddr) (reg len : Byte) : s.opr = .rdregs → s.ph = .bPoll → s.busyAnswer = false →
      ExecStep s (.rdregs dev reg len) (s.tIsBusy.ret (xferStatus s.xres))
  /-- RDID returns the identity (R144). -/
  | rdidReturn : s.opr = .rdid → s.ph = .bPoll → s.busyAnswer = false → s.xres = .ok →
      ExecStep s .rdid ({ s.tIsBusy with ident := s.rxbuf[0] }.ret .ok)
  /-- RDID returns after a failed receive (R144). -/
  | rdidFail : s.opr = .rdid → s.ph = .bPoll → s.busyAnswer = false → s.xres ≠ .ok →
      ExecStep s .rdid (s.tIsBusy.undefineIdent.ret .transfer)
  /-- RDSMP returns the sample (R146). -/
  | rdsmpReturn : s.opr = .rdsmp → s.ph = .bPoll → s.busyAnswer = false → s.xres = .ok →
      ExecStep s .rdsmp (s.tIsBusy.latchSample.ret .ok)
  /-- RDSMP returns after a failed receive (R149). -/
  | rdsmpFail : s.opr = .rdsmp → s.ph = .bPoll → s.busyAnswer = false → s.xres ≠ .ok →
      ExecStep s .rdsmp (s.tIsBusy.undefineAxes.ret .transfer)

/-- Everything a step of a read operation in progress can do, given what its end does after a failed send and after
the last poll. -/
theorem readPhase_step {i : Instr} {s t : State} {finish : State → State} (hr : opReads i.op = true)
    (ho : s.opr = i.op) (h : readPhase finish s = .next t)
    (short : s.ph = .aPoll → s.busyAnswer = false → s.xres ≠ .ok →
      ExecStep s i (finish (s.tIsBusy.undefineRx s.len.toNat)))
    (done : s.ph = .bPoll → s.busyAnswer = false → ExecStep s i (finish s.tIsBusy)) : ExecStep s i t := by
  have own : ∀ p : Phase, p = .aPoll ∨ p = .bPoll → opHasPhase i.op p = true := by
    intro p hp
    cases i <;> simp [Instr.op, opReads] at hr <;> rcases hp with rfl | rfl <;> rfl
  rcases readPhase_cases h with ⟨hp, rfl⟩ | ⟨hp, rfl⟩ | ⟨hp, rfl⟩ | ⟨hp, rfl⟩
  · exact .addressSent i hr ho hp
  · rcases pollThen_cases (addressPhaseDone finish) s with ⟨hb, h⟩ | ⟨hb, h⟩ <;> rw [h]
    · exact .busy i ho (own _ (.inl hp)) (by rw [hp]; rfl) hb
    · by_cases hx : s.xres = .ok
      · simpa [addressPhaseDone, hx] using ExecStep.addressAccepted i hr ho hp hb hx
      · simpa [addressPhaseDone, hx] using short hp hb hx
  · by_cases hx : s.recvAnswer = .ok
    · simpa [receiveBytes, hx] using ExecStep.received i hr ho hp hx
    · simpa [receiveBytes, hx] using ExecStep.receiveFailed i hr ho hp hx
  · rcases pollThen_cases finish s with ⟨hb, h⟩ | ⟨hb, h⟩ <;> rw [h]
    · exact .busy i ho (own _ (.inr hp)) (by rw [hp]; rfl) hb
    · exact done hp hb

/-- A bus operation's word, with no operation in progress: it begins, or the bus is not ready. -/
theorem admitBus_step {i : Instr} {s t : State} {start : State → State} (h0 : s.opr = .none) (hi : i.op ≠ .binit)
    (hd : i.op ≠ .decode) (h : Host.Outcome.next t = (.next (admitBus start s) : Host.Outcome State Fault Refusal))
    (begins : s.busReady = true → ExecStep s i (start s)) : ExecStep s i t := by
  simp only [Host.Outcome.next.injEq] at h
  subst h
  rcases admitBus_cases start s with ⟨hb, h⟩ | ⟨hb, h⟩ <;> rw [h]
  · exact begins hb
  · exact .notReady i h0 hb hi hd

/-- The inversion of exec. -/
theorem exec_step {i : Instr} {s t : State} (h : exec i s = .next t) : ExecStep s i t := by
  cases i with
  | binit =>
    rw [exec_binit] at h
    rcases whenFree_cases h with ⟨h0, h⟩ | ⟨_, _, h⟩ | ⟨h0, h1, h⟩
    · simp only [Host.Outcome.next.injEq] at h
      subst h
      cases hb : s.busReady
      · by_cases hi : s.initAnswer = .ok
        · simpa [initBus, hi, initStatus] using ExecStep.initOk h0 hb hi
        · simpa [initBus, hi] using ExecStep.initFail h0 hb hi
      · exact .initAgain h0 hb
    · cases h
    · cases h; exact .notTaken _ h0 h1
  | wrreg dev reg val =>
    rw [exec_wrreg] at h
    rcases whenFree_cases h with ⟨h0, h⟩ | ⟨_, ho, h⟩ | ⟨h0, h1, h⟩
    · exact admitBus_step h0 (by simp [Instr.op]) (by simp [Instr.op]) h (.wrreg dev reg val h0)
    · rcases wrregPhase_cases h with ⟨hp, rfl⟩ | ⟨hp, rfl⟩
      · exact .writeSent _ (.inl rfl) ho hp
      · rcases pollThen_cases returnXres s with ⟨hb, h⟩ | ⟨hb, h⟩ <;> rw [h]
        · exact .busy _ ho (by rw [hp]; rfl) (by rw [hp]; rfl) hb
        · exact .wrregReturn dev reg val ho hp hb
    · cases h; exact .notTaken _ h0 h1
  | rdregs dev reg len =>
    rw [exec_rdregs] at h
    rcases whenFree_cases h with ⟨h0, h⟩ | ⟨_, ho, h⟩ | ⟨h0, h1, h⟩
    · refine admitBus_step h0 (by simp [Instr.op]) (by simp [Instr.op]) h fun hb => ?_
      unfold beginRdregs
      split
      · rename_i hl; subst hl; exact .rdregsZero dev reg h0 hb
      · exact .rdregs dev reg len h0 hb ‹_›
    · refine readPhase_step rfl ho h (fun hp hb hx => ?_) fun hp hb => .rdregsReturn dev reg len ho hp hb
      have := ExecStep.rdregsShort dev reg len ho hp hb hx
      rwa [← xferStatus_error hx] at this
    · cases h; exact .notTaken _ h0 h1
  | rdid =>
    rw [exec_rdid] at h
    rcases whenFree_cases h with ⟨h0, h⟩ | ⟨_, ho, h⟩ | ⟨h0, h1, h⟩
    · exact admitBus_step h0 (by simp [Instr.op]) (by simp [Instr.op]) h (.rdid h0)
    · refine readPhase_step rfl ho h (fun hp hb hx => ?_) fun hp hb => ?_
      · simpa [finishRdid, returnXres, hx, xferStatus_error hx] using ExecStep.rdidShort ho hp hb hx
      · by_cases hx : s.xres = .ok
        · simpa [finishRdid, returnXres, hx, xferStatus] using ExecStep.rdidReturn ho hp hb hx
        · simpa [finishRdid, returnXres, hx, xferStatus_error hx] using ExecStep.rdidFail ho hp hb hx
    · cases h; exact .notTaken _ h0 h1
  | sinit =>
    rw [exec_sinit] at h
    rcases whenFree_cases h with ⟨h0, h⟩ | ⟨_, ho, h⟩ | ⟨h0, h1, h⟩
    · exact admitBus_step h0 (by simp [Instr.op]) (by simp [Instr.op]) h (.sinit h0)
    · rcases sinitPhase_cases h with ⟨hp, rfl⟩ | ⟨hp, rfl⟩ | ⟨hp, rfl⟩
      · exact .writeSent _ (.inr rfl) ho hp
      · rcases pollThen_cases (fun u => u.recordInitErr.toPhase .sDelay) s with ⟨hb, h⟩ | ⟨hb, h⟩ <;> rw [h]
        · exact .busy _ ho (by rw [hp]; rfl) (by rw [hp]; rfl) hb
        · exact .writeRecorded ho hp hb
      · by_cases hi : s.istep = 2
        · simpa [afterSettle, hi] using ExecStep.sinitReturn ho hp hi
        · simpa [afterSettle, hi] using ExecStep.settled ho hp hi
    · cases h; exact .notTaken _ h0 h1
  | rdsmp =>
    rw [exec_rdsmp] at h
    rcases whenFree_cases h with ⟨h0, h⟩ | ⟨_, ho, h⟩ | ⟨h0, h1, h⟩
    · exact admitBus_step h0 (by simp [Instr.op]) (by simp [Instr.op]) h (.rdsmp h0)
    · refine readPhase_step rfl ho h (fun hp hb hx => ?_) fun hp hb => ?_
      · simpa [finishRdsmp, returnXres, hx, xferStatus_error hx] using ExecStep.rdsmpShort ho hp hb hx
      · by_cases hx : s.xres = .ok
        · simpa [finishRdsmp, returnXres, hx, xferStatus] using ExecStep.rdsmpReturn ho hp hb hx
        · simpa [finishRdsmp, returnXres, hx, xferStatus_error hx] using ExecStep.rdsmpFail ho hp hb hx
    · cases h; exact .notTaken _ h0 h1
  | decode =>
    rw [exec_decode] at h
    rcases whenFree_cases h with ⟨h0, h⟩ | ⟨_, _, h⟩ | ⟨h0, h1, h⟩
    · cases h; exact .decode h0
    · cases h
    · cases h; exact .notTaken _ h0 h1

end Sys2Proof.Machine
end

