-- ==== Sys2Proof/Laws/LoopController.lean ====
section
/-! SUPPORT. Everything the Loop Controller's turn can do (43_sampling_loop.md), and everything a step can do. -/

namespace Sys2Proof.Machine

/-- The four words the Loop Controller issues are legal (R180). -/
theorem issueWord_binit (s : State) : issueWord 0x01000000#32 s = exec .binit s := by
  have h : decode 0x01000000#32 = .ok .binit := by decide
  simp [issueWord, h]

theorem issueWord_rdid (s : State) : issueWord 0x04000000#32 s = exec .rdid s := by
  have h : decode 0x04000000#32 = .ok .rdid := by decide
  simp [issueWord, h]

theorem issueWord_sinit (s : State) : issueWord 0x05000000#32 s = exec .sinit s := by
  have h : decode 0x05000000#32 = .ok .sinit := by decide
  simp [issueWord, h]

theorem issueWord_rdsmp (s : State) : issueWord 0x06000000#32 s = exec .rdsmp s := by
  have h : decode 0x06000000#32 = .ok .rdsmp := by decide
  simp [issueWord, h]

/-- `LcMove s t`: one of the ways in which the Loop Controller's turn leads from `s` to `t`. -/
inductive LcMove (s : State) : State → Prop where
  | start : s.lcs = .uninitialized → s.lcp = 0 → LcMove s (s.emit .initStart).nextLcp
  | binit {t : State} : s.lcs = .uninitialized → s.lcp = 1 → exec .binit s.nextLcp = .next t → LcMove s t
  | ready : s.lcs = .uninitialized → s.lcp = 2 → s.status = .ok → LcMove s (s.enterLcs .busReady)
  | halt : s.lcs = .uninitialized → s.lcp = 2 → s.status ≠ .ok →
      LcMove s ((s.emit (.initFail s.status)).enterLcs .halted)
  | rdid {t : State} : s.lcs = .busReady → s.lcp = 0 → exec .rdid s.nextLcp = .next t → LcMove s t
  | mismatch : s.lcs = .busReady → s.lcp = 1 → s.mismatchDue = true →
      LcMove s { s.emit .idMismatch with mismatchDue := false }.nextLcp
  | identity : s.lcs = .busReady → s.lcp = 1 → s.mismatchDue = false → s.status = .ok → s.ident = Config.idExpected →
      LcMove s (s.emit (.ident s.ident)).nextLcp
  | wrongIdentity : s.lcs = .busReady → s.lcp = 1 → s.mismatchDue = false → s.status = .ok →
      s.ident ≠ Config.idExpected → LcMove s { s.emit (.ident s.ident) with mismatchDue := true }
  | identityFailed : s.lcs = .busReady → s.lcp = 1 → s.mismatchDue = false → s.status ≠ .ok →
      LcMove s (s.emit (.idReadFail s.status)).nextLcp
  | checked : s.lcs = .busReady → s.lcp = 2 → LcMove s (s.enterLcs .identityChecked)
  | sinit {t : State} : s.lcs = .identityChecked → s.lcp = 0 → exec .sinit s.nextLcp = .next t → LcMove s t
  | writesOk : s.lcs = .identityChecked → s.lcp = 1 → s.initErr = 0#3 → LcMove s s.nextLcp
  | writesFailed : s.lcs = .identityChecked → s.lcp = 1 → s.initErr ≠ 0#3 →
      LcMove s (s.emit (.initWriteFail s.initErr)).nextLcp
  | done : s.lcs = .identityChecked → s.lcp = 2 → LcMove s (s.emit .initDone).nextLcp
  | active : s.lcs = .identityChecked → s.lcp = 3 → LcMove s (s.enterLcs .measurementActive)
  | sample : s.lcs = .measurementActive → s.lcp = 0 → LcMove s (s.enterLcs .sampling)
  | rdsmp {t : State} : s.lcs = .sampling → s.lcp = 0 → exec .rdsmp s.nextLcp = .next t → LcMove s t
  | sampleOk : s.lcs = .sampling → s.lcp = 1 → s.status = .ok → LcMove s (s.emit (.sample s.ax s.ay s.az)).nextLcp
  | sampleFailed : s.lcs = .sampling → s.lcp = 1 → s.status ≠ .ok →
      LcMove s (s.emit (.sampleFail s.status)).nextLcp
  | delay : s.lcs = .sampling → s.lcp = 2 → LcMove s (s.wait Config.sampleMs).nextLcp
  | again : s.lcs = .sampling → s.lcp = 3 → LcMove s { s with lcp := 0 }
  | halted : s.lcs = .halted → LcMove s s

/-- The inversion of the Loop Controller's turn. -/
theorem lcStep_move {s t : State} (h : lcStep s = .next t) : LcMove s t := by
  unfold lcStep at h
  cases hl : s.lcs <;> simp only [hl] at h
  · unfold lcUninitialized at h
    split at h
    · cases h; exact .start hl ‹_›
    split at h
    · rw [issueWord_binit] at h; exact .binit hl ‹_› h
    split at h
    · split at h <;> cases h
      · exact .ready hl ‹_› ‹_›
      · exact .halt hl ‹_› ‹_›
    · cases h
  · unfold lcBusReady at h
    split at h
    · rw [issueWord_rdid] at h; exact .rdid hl ‹_› h
    split at h
    · unfold reportIdentity at h
      cases h
      cases hm : s.mismatchDue <;> simp only [if_true]
      · by_cases hs : s.status = .ok
        · by_cases hi : s.ident = Config.idExpected
          · simpa [hs, hi] using LcMove.identity hl ‹_› hm hs hi
          · simpa [hs, hi] using LcMove.wrongIdentity hl ‹_› hm hs hi
        · simpa [hs] using LcMove.identityFailed hl ‹_› hm hs
      · exact .mismatch hl ‹_› hm
    split at h
    · cases h; exact .checked hl ‹_›
    · cases h
  · unfold lcIdentityChecked at h
    split at h
    · rw [issueWord_sinit] at h; exact .sinit hl ‹_› h
    split at h
    · split at h <;> cases h
      · exact .writesOk hl ‹_› ‹_›
      · exact .writesFailed hl ‹_› ‹_›
    split at h
    · cases h; exact .done hl ‹_›
    split at h
    · cases h; exact .active hl ‹_›
    · cases h
  · unfold lcMeasurementActive at h
    split at h
    · cases h; exact .sample hl ‹_›
    · cases h
  · unfold lcSampling at h
    split at h
    · rw [issueWord_rdsmp] at h; exact .rdsmp hl ‹_› h
    split at h
    · unfold reportSample at h
      split at h <;> cases h
      · exact .sampleOk hl ‹_› ‹_›
      · exact .sampleFailed hl ‹_› ‹_›
    split at h
    · cases h; exact .delay hl ‹_›
    split at h
    · cases h; exact .again hl ‹_›
    · cases h
  · cases h; exact .halted hl

/-- `PortMove s t`: one of the ways in which the command port's turn leads from `s` to `t`. -/
inductive PortMove (s : State) : State → Prop where
  | empty : s.cmds = [] → PortMove s s
  | taken {t : State} (w : Word) (ws : List Word) (i : Instr) : s.cmds = w :: ws → decode w = .ok i →
      exec i { s with cmds := ws } = .next t → PortMove s t
  | illegal (w : Word) (ws : List Word) : s.cmds = w :: ws → PortMove s ({ s with cmds := ws }.refuse .illegal)

/-- The inversion of the command port's turn. -/
theorem portStep_move {s t : State} (h : portStep s = .next t) : PortMove s t := by
  unfold portStep at h
  cases hc : s.cmds with
  | nil => simp only [hc] at h; cases h; exact .empty hc
  | cons w ws =>
    simp only [hc, issueWord] at h
    cases hd : decode w with
    | error e => simp only [hd] at h; cases h; exact .illegal w ws hc
    | ok i => simp only [hd] at h; exact .taken w ws i hc hd h

/-- The inversion of a step: a reset, or a step of the operation in progress, of the Loop Controller's turn or of the
command port's, which waits for its response. -/
theorem step_inv {s t : State} (h : step s = .next t) :
    (s.rstSample = true ∧ t = s.sampled.resetBlock) ∨
    (s.rstSample = false ∧ ∃ u, t = awaitResponse s.sampled u ∧
      ((s.opr ≠ .none ∧ ∃ i, i.op = s.opr ∧ ExecStep s.sampled i u) ∨
      (s.opr = .none ∧ s.issuer = .loopController ∧ LcMove s.sampled u) ∨
      (s.opr = .none ∧ s.issuer = .commandPort ∧ PortMove s.sampled u))) := by
  rcases step_cases s with ⟨hr, h1⟩ | ⟨hr, ⟨ho, i, _, hi, h1⟩ | ⟨ho, hl, h1⟩ | ⟨ho, hl, h1⟩⟩ <;> rw [h1] at h
  · cases h; exact .inl ⟨hr, rfl⟩
  · obtain ⟨u, hu, ht⟩ := onceAnswered_next h
    exact .inr ⟨hr, u, ht, .inl ⟨ho, i, hi, exec_step hu⟩⟩
  · obtain ⟨u, hu, ht⟩ := onceAnswered_next h
    exact .inr ⟨hr, u, ht, .inr (.inl ⟨ho, hl, lcStep_move hu⟩)⟩
  · obtain ⟨u, hu, ht⟩ := onceAnswered_next h
    exact .inr ⟨hr, u, ht, .inr (.inr ⟨ho, hl, portStep_move hu⟩)⟩

end Sys2Proof.Machine
end

