-- ==== Sys2Proof/Laws/PerInstr.lean ====
section
/-! SUPPORT. Facts about every instruction as syntax, one lemma per constructor. -/

namespace Sys2Proof.Laws

/-! ## Every encoding is a legal word (30_encoding.md R73, R74) -/

/-- Family `EncodeLegal`: the word of an instruction matches a row of R73. -/
def EncodeLegal.Statement (i : Instr) : Prop := legalWord (encode i) = true

/-- A word packed from an operation's code and its operands matches that operation's row, whose operand fields are
free or zero. -/
theorem legalWord_packWord {r : OpcodeRow} (hr : r ∈ opcodeTable) (dev : DevAddr) (reg imm : Byte)
    (h : r.op ≠ .wrreg → r.op ≠ .rdregs → dev = 0 ∧ reg = 0 ∧ imm = 0) :
    legalWord (packWord r.op dev reg imm) = true := by
  refine List.any_eq_true.2 ⟨r, hr, (opcodeTable_selects _ r hr).2 ?_⟩
  simpa using h

theorem EncodeLegal.binit : EncodeLegal.Statement .binit :=
  legalWord_packWord (r := opcodeTable[0]) (by decide) 0 0 0 (fun _ _ => ⟨rfl, rfl, rfl⟩)

theorem EncodeLegal.wrreg (dev : DevAddr) (reg val : Byte) : EncodeLegal.Statement (.wrreg dev reg val) :=
  legalWord_packWord (r := opcodeTable[1]) (by decide) dev reg val (fun h _ => absurd rfl h)

theorem EncodeLegal.rdregs (dev : DevAddr) (reg len : Byte) : EncodeLegal.Statement (.rdregs dev reg len) :=
  legalWord_packWord (r := opcodeTable[2]) (by decide) dev reg len (fun _ h => absurd rfl h)

theorem EncodeLegal.rdid : EncodeLegal.Statement .rdid :=
  legalWord_packWord (r := opcodeTable[3]) (by decide) 0 0 0 (fun _ _ => ⟨rfl, rfl, rfl⟩)

theorem EncodeLegal.sinit : EncodeLegal.Statement .sinit :=
  legalWord_packWord (r := opcodeTable[4]) (by decide) 0 0 0 (fun _ _ => ⟨rfl, rfl, rfl⟩)

theorem EncodeLegal.rdsmp : EncodeLegal.Statement .rdsmp :=
  legalWord_packWord (r := opcodeTable[5]) (by decide) 0 0 0 (fun _ _ => ⟨rfl, rfl, rfl⟩)

theorem EncodeLegal.decode : EncodeLegal.Statement .decode :=
  legalWord_packWord (r := opcodeTable[6]) (by decide) 0 0 0 (fun _ _ => ⟨rfl, rfl, rfl⟩)

/-! ## The notation of R85 is one to one -/

/-- Family `NotationRoundTrip`: an instruction is what its line assembles to. -/
def NotationRoundTrip.Statement (i : Instr) : Prop := i.toAsm.assemble = some i

/-- A device address written as a number is in range. -/
theorem devInRange_toNat (d : DevAddr) : devInRange d.toNat = true := by
  have := d.isLt
  simp only [devInRange, decide_eq_true_eq]
  omega

/-- A byte written as a number is in range. -/
theorem byteInRange_toNat (b : Byte) : byteInRange b.toNat = true := by
  have := b.isLt
  simp only [byteInRange, decide_eq_true_eq]
  omega

theorem NotationRoundTrip.binit : NotationRoundTrip.Statement .binit := rfl

theorem NotationRoundTrip.wrreg (dev : DevAddr) (reg val : Byte) :
    NotationRoundTrip.Statement (.wrreg dev reg val) := by
  simp [NotationRoundTrip.Statement, Instr.toAsm, Asm.assemble, Asm.wellFormed, devInRange_toNat, byteInRange_toNat]

theorem NotationRoundTrip.rdregs (dev : DevAddr) (reg len : Byte) :
    NotationRoundTrip.Statement (.rdregs dev reg len) := by
  simp [NotationRoundTrip.Statement, Instr.toAsm, Asm.assemble, Asm.wellFormed, devInRange_toNat, byteInRange_toNat]

theorem NotationRoundTrip.rdid : NotationRoundTrip.Statement .rdid := rfl

theorem NotationRoundTrip.sinit : NotationRoundTrip.Statement .sinit := rfl

theorem NotationRoundTrip.rdsmp : NotationRoundTrip.Statement .rdsmp := rfl

theorem NotationRoundTrip.decode : NotationRoundTrip.Statement .decode := rfl

end Sys2Proof.Laws
end

