-- ==== Sys2Proof/Laws/Runs.lean ====
section
/-! SUPPORT. Composing runs, and what no instruction's step changes. -/

namespace Sys2Proof.Machine

/-! ## Runs -/

/-- No step leads nowhere else. -/
theorem runs_zero (s : State) : Runs 0 s s := rfl

/-- A step and then a run. -/
theorem runs_cons {n : Nat} {s u t : State} (h : step s = .next u) (hr : Runs n u t) : Runs (n + 1) s t := by
  have hs : Sys2Proof.core.step s = .next u := h
  unfold Runs at hr ⊢
  simp only [Host.Core.run, hs]
  exact hr

/-- One step. -/
theorem runs_one {s t : State} (h : step s = .next t) : Runs 1 s t := runs_cons h (runs_zero t)

/-- A run and then a run. -/
theorem runs_add {n m : Nat} {s u t : State} (h : Runs n s u) (hr : Runs m u t) : Runs (n + m) s t := by
  induction n generalizing s with
  | zero => cases h; simpa using hr
  | succ k ih =>
    unfold Runs at h
    simp only [Host.Core.run] at h
    split at h
    · next hv =>
      rw [show k + 1 + m = (k + m) + 1 by omega]
      exact runs_cons hv (ih h)
    · cases h
    · cases h

/-! ## What only the Loop Controller changes (10_state.md R21) -/

/-- No step of an instruction changes LCS, LCP, the warning that is due or the issuer. -/
theorem ExecStep.keeps_controller {i : Instr} {s t : State} (h : ExecStep s i t) :
    t.lcs = s.lcs ∧ t.lcp = s.lcp ∧ t.mismatchDue = s.mismatchDue ∧ t.issuer = s.issuer := by
  cases h <;> simp [sendWriteFrame, sendAddressFrame]

end Sys2Proof.Machine
end

