-- ==== Sys2Proof/Tests/Slice0.lean ====
section
/-! SUPPORT. Tests with results taken from 95_test_vectors.md, the smoke test of WellFormed, and for each statement a
concrete state and operands that meet its hypotheses. -/

open Sys2Proof Sys2Proof.Machine

namespace Sys2Proof.Tests

/-! ## WellFormed refuses an operand out of its range (30_encoding.md R85) -/

theorem smoke_wrreg_dev : (Asm.wrreg 0x80 0 0).assemble = none := by decide
theorem smoke_wrreg_reg : (Asm.wrreg 0 0x100 0).assemble = none := by decide
theorem smoke_wrreg_val : (Asm.wrreg 0 0 0x100).assemble = none := by decide
theorem smoke_rdregs_dev : (Asm.rdregs 0x80 0 0).assemble = none := by decide
theorem smoke_rdregs_reg : (Asm.rdregs 0 0x100 0).assemble = none := by decide
theorem smoke_rdregs_len : (Asm.rdregs 0 0 0x100).assemble = none := by decide
theorem smoke_boundary_accepted :
    (Asm.wrreg 0x7F 0xFF 0xFF).assemble = some (.wrreg 0x7F 0xFF 0xFF) ∧
    (Asm.rdregs 0x7F 0xFF 0xFF).assemble = some (.rdregs 0x7F 0xFF 0xFF) := by decide

/-! ## Decoding: the words of R71 and R73 (vectors V-E1 to V-E14, V-X1 to V-X11)

zero5 | op | zero1 | dev | reg | imm, written bit by bit. -/

theorem test_decode_binit : decode 0b00000_001_0_0000000_00000000_00000000#32 = .ok .binit := by decide
theorem test_decode_wrreg :
    decode 0b00000_010_0_1010011_00101101_00001000#32 = .ok (.wrreg 0x53 0x2D 0x08) := by decide
theorem test_decode_wrreg_max :
    decode 0b00000_010_0_1111111_11111111_11111111#32 = .ok (.wrreg 0x7F 0xFF 0xFF) := by decide
theorem test_decode_wrreg_zero : decode 0x02000000#32 = .ok (.wrreg 0 0 0) := by decide
theorem test_decode_rdregs :
    decode 0b00000_011_0_1010011_00110010_00000110#32 = .ok (.rdregs 0x53 0x32 6) := by decide
theorem test_decode_rdregs_max : decode 0x037FFFFF#32 = .ok (.rdregs 0x7F 0xFF 255) := by decide
theorem test_decode_rdregs_empty : decode 0x03533200#32 = .ok (.rdregs 0x53 0x32 0) := by decide
theorem test_decode_rdid : decode 0b00000_100_0_0000000_00000000_00000000#32 = .ok .rdid := by decide
theorem test_decode_sinit : decode 0b00000_101_0_0000000_00000000_00000000#32 = .ok .sinit := by decide
theorem test_decode_rdsmp : decode 0b00000_110_0_0000000_00000000_00000000#32 = .ok .rdsmp := by decide
theorem test_decode_decode : decode 0b00000_111_0_0000000_00000000_00000000#32 = .ok .decode := by decide

theorem test_encode_wrreg : encode (.wrreg 0x53 0x31 0x01) = 0x02533101#32 := by decide
theorem test_encode_rdregs : encode (.rdregs 0x53 0x00 1) = 0x03530001#32 := by decide

theorem test_illegal_op_zero :
    decode 0x00000000#32 = .error .opZero ∧ decode 0x00532D08#32 = .error .opZero := by decide
theorem test_illegal_reserved_bits :
    decode 0x08000000#32 = .error .reservedBits ∧ decode 0x0A000000#32 = .error .reservedBits ∧
    decode 0x82532D08#32 = .error .reservedBits ∧ decode 0x02D32D08#32 = .error .reservedBits := by decide
theorem test_illegal_operands :
    decode 0x01000001#32 = .error .operandNotZero ∧ decode 0x04530000#32 = .error .operandNotZero ∧
    decode 0x05002D00#32 = .error .operandNotZero ∧ decode 0x06000006#32 = .error .operandNotZero ∧
    decode 0x07000100#32 = .error .operandNotZero := by decide

theorem test_table_word : decodeTableWord 32 0x02532D08 = some (.wrreg 0x53 0x2D 0x08) := by decide
theorem test_table_word_illegal : decodeTableWord 32 0x02D32D08 = none := by decide

/-! ## One step of each instruction -/

/-- A block between operations, its bus ready, every data register written and the environment's next responses
there: known values, so that a test can compute. -/
def bench : State :=
  { State.reset with
    busReady := true
    status := .illegal
    dev := 0x11
    reg := 0x22
    val := 0x33
    len := 2
    txbuf := #v[0x44, 0x55]
    rxbuf := Vector.replicate 255 0x66
    ident := 0x77
    ax := 1
    ay := 2
    az := 3
    transportResponds := [true]
    delayCompletes := [true]
    sinkAccepts := [true]
    issuer := .commandPort }

/-- The bench with its bus not initialised. -/
def noBus : State := { bench with busReady := false }

/-- The bench with an operation in progress. -/
def during (op : Op) (ph : Phase) (x : XferResult) : State := { bench with opr := op, ph := ph, xres := x }

/-- The bench with the first six bytes of `RXBUF` given. -/
def withBytes (s : State) (b0 b1 b2 b3 b4 b5 : Byte) : State :=
  { s with rxbuf := (((((s.rxbuf.set 0 b0).set 1 b1).set 2 b2).set 3 b3).set 4 b4).set 5 b5 }

/-- A field of the next state, when there is one. -/
def after {α : Type} (o : Host.Outcome State Fault Refusal) (f : State → α) : Option α :=
  match o with
  | .next t => some (f t)
  | .fault _ => none
  | .refused _ => none

/-- V-B1: one T.Init at 100000 Hz, and the bus is ready. -/
theorem test_binit_ok :
    after (exec .binit { noBus with initAnswers := [.ok] }) (fun t => (t.busReady, t.status, t.trace)) =
      some (true, .ok, [.tInit 100000 .ok]) := by decide

/-- V-B3: a failure leaves the bus as it was. -/
theorem test_binit_config :
    after (exec .binit { noBus with initAnswers := [.config] }) (fun t => (t.busReady, t.status.code)) =
      some (false, 2) := by decide

/-- V-W4: refused before the bus is ready, with no operand latched. -/
theorem test_wrreg_not_ready :
    after (exec (.wrreg 0x53 0x2D 0x08) noBus) (fun t => (t.status.code, t.dev, t.reg, t.val, t.trace)) =
      some (4, 0x11, 0x22, 0x33, []) := by decide

/-- V-W1: the frame is `[REG, VAL]` with a stop. -/
theorem test_wrreg_frame :
    after (exec (.wrreg 0 0 0) { during .wrreg .wSend .ok with sendAnswers := [.transferError] })
      (fun t => (t.trace, t.xres, t.status)) =
      some ([.tSend 0x11 [0x22, 0x33] false .transferError], .transferError, .illegal) := by decide

/-- V-R4: a read of no bytes succeeds at once. -/
theorem test_rdregs_zero_length :
    after (exec (.rdregs 0x53 0x32 0) bench) (fun t => (t.status, t.len, t.opr, t.trace)) =
      some (.ok, 0, .none, []) := by decide

/-- V-R7: the bytes received, low index first, the others kept. -/
theorem test_rdregs_receive :
    after (exec (.rdregs 0 0 0) { during .rdregs .bRecv .ok with recvAnswers := [.ok [0xAA, 0xBB]] })
      (fun t => (t.rxbuf[0], t.rxbuf[1], t.rxbuf[2])) = some (0xAA, 0xBB, 0x66) := by
  simp [after, exec, execRdregs, whenFree, during, bench, readPhase, receiveBytes, State.recvAnswer, State.recvByte]

/-- V-I2: the identity byte, and STATUS 0 whatever it is. -/
theorem test_rdid_return :
    after (exec .rdid { during .rdid .bPoll .ok with busyAnswers := [false] }) (fun t => (t.ident, t.status, t.opr)) =
      some (0x66, .ok, .none) := by decide

/-- V-I3: the short-circuit returns the send's error and no T.Receive follows. -/
theorem test_rdid_short_circuit :
    after (exec .rdid { during .rdid .aPoll .transferError with busyAnswers := [false] })
      (fun t => (t.status, t.opr, t.ph, t.trace)) = some (.transfer, .none, .idle, [.tBusy false]) := by decide

/-- V-S3: the bit of the failed write, and the delay also after it. -/
theorem test_sinit_records :
    after (exec .sinit { during .sinit .wPoll .transferError with istep := 1, busyAnswers := [false] })
      (fun t => (t.initErr, t.ph)) = some (0b010#3, .sDelay) := by decide

/-- V-S1: the second write's value is 0x08, after 10 ms. -/
theorem test_sinit_next_write :
    after (exec .sinit { during .sinit .sDelay .ok with istep := 0 }) (fun t => (t.trace, t.istep, t.val, t.ph)) =
      some ([.delay 10], 1, 0x08, .wSend) := by decide

/-- V-M1: the example S1 of the document. -/
theorem test_rdsmp_return :
    after (exec .rdsmp { withBytes (during .rdsmp .bPoll .ok) 0x10 0x00 0xF0 0xFF 0x34 0x12 with busyAnswers := [false] })
      (fun t => (t.ax.toInt, t.ay.toInt, t.az.toInt, t.status)) = some (16, -16, 4660, .ok) := by decide

/-- V-M3: after a failed receive the status is `E_TRANSFER`. -/
theorem test_rdsmp_failed :
    after (exec .rdsmp { during .rdsmp .bPoll .transferError with busyAnswers := [false] })
      (fun t => (t.status.code, t.opr)) = some (3, .none) := by decide

/-- V-D3: extremes, with the bus not initialised and no event. -/
theorem test_decode_extremes :
    after (exec .decode (withBytes noBus 0xFF 0x7F 0x00 0x80 0x01 0x00))
      (fun t => (t.ax.toInt, t.ay.toInt, t.az.toInt, t.status, t.trace)) = some (32767, -32768, 1, .ok, []) := by decide

/-- V-D4: a low byte is not sign-extended. -/
theorem test_decode_low_byte :
    (decodeAxis 0x00 0x01).toInt = 256 ∧ (decodeAxis 0x80 0x00).toInt = 128 ∧ (decodeAxis 0x7F 0xFF).toInt = -129 := by
  decide

/-- R170, R171: the first step after reset is `Emit(EV_INIT_START)`. -/
theorem test_first_step :
    after (step { State.reset with sinkAccepts := [true] }) (fun t => (t.trace, t.lcp)) =
      some ([.emit .initStart], 1) := by decide

/-- R109: while the sink does not accept the report the block is stuck there, and takes the step when it does. -/
theorem test_sink_waits :
    after (step { State.reset with sinkAccepts := [false, true] }) (fun t => (t.trace, t.lcp, t.sinkAccepts)) =
      some ([], 0, [true]) := by decide

/-- R109: a write frame that the transport does not respond to leaves no event and no result. -/
theorem test_transport_waits :
    after (step { during .wrreg .wSend .ok with transportResponds := [false], sendAnswers := [.transferError] })
      (fun t => (t.trace, t.ph, t.xres, t.sendAnswers)) = some ([], .wSend, .ok, [.transferError]) := by decide

/-- A word placed where the next step takes it: P5's illegal word. -/
theorem test_fetch_illegal :
    after (step (State.reset.withFetchWord 32 0x02D32D08)) (fun t => t.status.code) = some 5 := by decide

/-- R230: a reset in the middle of an operation. -/
theorem test_reset_mid_operation :
    after (step { during .wrreg .wPoll .ok with rst := [true], trace := [.tBusy true] })
      (fun t => (t.opr, t.ph, t.busReady, t.status, t.trace)) = some (.none, .idle, false, .ok, []) := by decide

/-- R172, V-L3: a wrong identity byte is followed by the warning. -/
theorem test_mismatch_warning :
    after (step { bench with issuer := .loopController, lcs := .busReady, lcp := 1, mismatchDue := true })
      (fun t => (t.trace, t.lcp)) = some ([.emit .idMismatch], 2) := by decide

/-- R81: the codes and the packing of a sample's payload. -/
theorem test_report_payload :
    (Report.sample 0x0010 0xFFF0 0x1234).code = 8 ∧
    (Report.sample 0x0010 0xFFF0 0x1234).payload = 0x0010FFF01234#48 := by decide

/-! ## Witnesses: each statement's hypotheses hold together of concrete values

For encodings: -/

theorem witness_DecodeOnlyEncodings : decode 0x027FFFFF#32 = .ok (.wrreg 0x7F 0xFF 0xFF) := by decide

theorem witness_DecodeSelectsTheRow :
    ⟨.rdregs, 0x03000000#32, 0xFF800000#32⟩ ∈ opcodeTable ∧
    (OpcodeRow.mk .rdregs 0x03000000#32 0xFF800000#32).selects 0x037FFFFF#32 = true ∧
    decode 0x037FFFFF#32 = .ok (.rdregs 0x7F 0xFF 0xFF) := by decide

/-- The command port with one word waiting. -/
def atPort (s : State) (w : Word) : State := { s with cmds := [w] }

theorem witness_IllegalWordRefused :
    (atPort bench 0x02D32D08#32).AtPort 0x02D32D08#32 [] ∧ legalWord 0x02D32D08#32 = false :=
  ⟨⟨rfl, rfl, rfl, rfl⟩, by decide⟩

theorem witness_IllegalWordRefused_operands :
    legalWord 0x01000001#32 = false ∧ legalWord 0x00000000#32 = false ∧ legalWord 0x80000000#32 = false := by decide

/-! For the step: -/

theorem witness_StepTakesCommandWord :
    (atPort bench 0x07000000#32).rstSample = false ∧ (atPort bench 0x07000000#32).opr = .none ∧
    (atPort bench 0x07000000#32).issuer = .commandPort ∧ (atPort bench 0x07000000#32).cmds = [0x07000000#32] ∧
    decode 0x07000000#32 = .ok .decode := by decide

theorem witness_StepContinuesOperation :
    (during .rdsmp .aSend .ok).rstSample = false ∧ (during .rdsmp .aSend .ok).opr ≠ .none := by decide

theorem witness_StepUnderReset : { during .sinit .wPoll .ok with rst := [true] }.rstSample = true := by decide

/-! For admission: -/

theorem witness_NotReadyRefused :
    (Instr.rdregs 0x53 0x32 0).op ≠ .binit ∧ (Instr.rdregs 0x53 0x32 0).op ≠ .decode ∧ noBus.opr = .none ∧
    noBus.busReady = false := by decide

theorem witness_OneOperationAtATime :
    (during .sinit .sDelay .ok).opr ≠ .none ∧ (during .sinit .sDelay .ok).opr ≠ Instr.decode.op := by decide

theorem witness_BusOperationsBegin :
    bench.opr = .none ∧ bench.busReady = true ∧ (1 : Byte) ≠ 0 ∧ (255 : Byte) ≠ 0 := by decide

/-! For BINIT: -/

theorem witness_BinitInitialisesBus_ok :
    noBus.opr = .none ∧ noBus.ph = .idle ∧ noBus.busReady = false ∧
    { noBus with initAnswers := [.ok] }.initAnswer = .ok := by decide

theorem witness_BinitInitialisesBus_error :
    noBus.busReady = false ∧ { noBus with initAnswers := [.config] }.initAnswer = .config ∧
    { noBus with initAnswers := [.busUnavailable] }.initAnswer = .busUnavailable ∧
    InitResult.config ≠ .ok ∧ InitResult.busUnavailable ≠ .ok := by decide

theorem witness_BinitInitialisesBus_again : bench.opr = .none ∧ bench.ph = .idle ∧ bench.busReady = true := by decide

/-! For the phases of an access: -/

theorem witness_WriteFrameSent :
    (during .wrreg .wSend .ok).opr = (Instr.wrreg 0 0 0).op ∧ (during .sinit .wSend .ok).opr = Instr.sinit.op ∧
    (during .sinit .wSend .ok).ph = .wSend := by decide

theorem witness_AddressFrameSent :
    opReads (Instr.rdregs 0 0 1).op = true ∧ opReads Instr.rdid.op = true ∧ opReads Instr.rdsmp.op = true ∧
    (during .rdregs .aSend .ok).opr = (Instr.rdregs 0 0 1).op ∧ (during .rdid .aSend .ok).opr = Instr.rdid.op ∧
    (during .rdsmp .aSend .ok).opr = Instr.rdsmp.op ∧ (during .rdsmp .aSend .ok).ph = .aSend := by decide

theorem witness_BusyPollRepeats :
    (during .sinit .wPoll .ok).opr = Instr.sinit.op ∧ opHasPhase Instr.sinit.op .wPoll = true ∧
    opHasPhase Instr.rdid.op .aPoll = true ∧ opHasPhase Instr.rdsmp.op .bPoll = true ∧ Phase.wPoll.polls = true ∧
    { during .sinit .wPoll .ok with busyAnswers := [true] }.busyAnswer = true := by decide

/-- An operation in progress whose poll will answer false. -/
def polled (op : Op) (ph : Phase) (x : XferResult) : State := { during op ph x with busyAnswers := [false] }

theorem witness_WrregReturns :
    (polled .wrreg .wPoll .ok).opr = .wrreg ∧ (polled .wrreg .wPoll .ok).ph = .wPoll ∧
    (polled .wrreg .wPoll .ok).busyAnswer = false ∧ (polled .wrreg .wPoll .transferError).xres ≠ .ok := by decide

theorem witness_AddressPhaseAccepted :
    opReads Instr.rdsmp.op = true ∧ (polled .rdsmp .aPoll .ok).opr = Instr.rdsmp.op ∧
    (polled .rdsmp .aPoll .ok).ph = .aPoll ∧ (polled .rdsmp .aPoll .ok).busyAnswer = false ∧
    (polled .rdsmp .aPoll .ok).xres = .ok := by decide

theorem witness_BytesReceived :
    opReads (Instr.rdregs 0 0 0).op = true ∧ (during .rdregs .bRecv .ok).opr = (Instr.rdregs 0 0 0).op ∧
    (during .rdregs .bRecv .ok).ph = .bRecv := by decide

/-- Both sides of the last index written, and a failed receive. -/
theorem witness_BytesReceived_index :
    { during .rdregs .bRecv .ok with recvAnswers := [.ok [1, 2]] }.recvAnswer = .ok ∧
    1 < (during .rdregs .bRecv .ok).len.toNat ∧ (during .rdregs .bRecv .ok).len.toNat ≤ 2 ∧
    { during .rdregs .bRecv .ok with recvAnswers := [.failed] }.recvAnswer = .transferError := by decide

theorem witness_RdregsReturns :
    (polled .rdregs .bPoll .ok).opr = .rdregs ∧ (polled .rdregs .bPoll .ok).busyAnswer = false ∧
    (polled .rdregs .bPoll .ok).ph = .bPoll := by decide

theorem witness_RdregsReturns_short :
    (polled .rdregs .aPoll .transferError).opr = .rdregs ∧ (polled .rdregs .aPoll .transferError).busyAnswer = false ∧
    (polled .rdregs .aPoll .transferError).ph = .aPoll ∧ (polled .rdregs .aPoll .transferError).xres ≠ .ok := by decide

theorem witness_ZeroLengthRead :
    bench.opr = .none ∧ bench.ph = .idle ∧ bench.busReady = true ∧ noBus.opr = .none ∧ noBus.ph = .idle ∧
    noBus.busReady = false := by decide

theorem witness_RdidReturns :
    (polled .rdid .bPoll .ok).opr = .rdid ∧ (polled .rdid .bPoll .ok).busyAnswer = false ∧
    (polled .rdid .bPoll .ok).ph = .bPoll ∧ (polled .rdid .bPoll .ok).xres = .ok := by decide

theorem witness_RdidReturns_failed :
    (polled .rdid .bPoll .transferError).opr = .rdid ∧ (polled .rdid .bPoll .transferError).busyAnswer = false ∧
    (polled .rdid .bPoll .transferError).ph = .bPoll ∧ (polled .rdid .bPoll .transferError).xres ≠ .ok ∧
    (polled .rdid .aPoll .transferError).ph = .aPoll ∧ (polled .rdid .aPoll .transferError).xres ≠ .ok := by decide

theorem witness_RdsmpReturns :
    (polled .rdsmp .bPoll .ok).opr = .rdsmp ∧ (polled .rdsmp .bPoll .ok).busyAnswer = false ∧
    (polled .rdsmp .bPoll .ok).ph = .bPoll ∧ (polled .rdsmp .bPoll .ok).xres = .ok := by decide

theorem witness_RdsmpReturns_failed :
    (polled .rdsmp .bPoll .transferError).opr = .rdsmp ∧ (polled .rdsmp .bPoll .transferError).busyAnswer = false ∧
    (polled .rdsmp .bPoll .transferError).ph = .bPoll ∧ (polled .rdsmp .bPoll .transferError).xres ≠ .ok ∧
    (polled .rdsmp .aPoll .transferError).ph = .aPoll ∧ (polled .rdsmp .aPoll .transferError).xres ≠ .ok := by decide

theorem witness_SinitRecordsWrite :
    (polled .sinit .wPoll .ok).opr = .sinit ∧ (polled .sinit .wPoll .ok).ph = .wPoll ∧
    (polled .sinit .wPoll .ok).busyAnswer = false := by decide

theorem witness_SinitSettles :
    (during .sinit .sDelay .ok).opr = .sinit ∧ (during .sinit .sDelay .ok).ph = .sDelay ∧
    { during .sinit .sDelay .ok with istep := 0 }.istep = 0 ∧ { during .sinit .sDelay .ok with istep := 1 }.istep = 1 ∧
    { during .sinit .sDelay .ok with istep := 2 }.istep = 2 := by decide

/-! For whole operations: -/

/-- The bench with a word at the command port, the answers of the environment, and its responses to the next `n`
requests to the transport and to three delays. -/
def scripted (w : Word) (n : Nat) (sends : List XferResult) (recvs : List RecvAnswer) (polls : List Bool) : State :=
  { atPort bench w with
    sendAnswers := sends, recvAnswers := recvs, busyAnswers := polls
    transportResponds := granted n ++ [], delayCompletes := granted 3 ++ [] }

/-- V-W2, with two polls that answer true. -/
theorem witness_WrregRuns :
    let s := scripted (encode (.wrreg 0x53 0x2D 0x08)) (2 + 2) [.ok] [] (idleAfter 2 ++ [])
    s.AtPort (encode (.wrreg 0x53 0x2D 0x08)) [] ∧ s.busReady = true ∧ s.transportResponds = granted (2 + 2) ++ [] ∧
      s.sendAnswers = .ok :: [] ∧
      s.busyAnswers = idleAfter 2 ++ [] :=
  ⟨⟨rfl, rfl, rfl, rfl⟩, rfl, rfl, rfl, rfl⟩

/-- V-R1. -/
theorem witness_RdregsRuns :
    let s := scripted (encode (.rdregs 0x53 0x00 1)) (0 + 0 + 4) [.ok] [.ok [0xE5]] (idleAfter 0 ++ (idleAfter 0 ++ []))
    s.AtPort (encode (.rdregs 0x53 0x00 1)) [] ∧ s.busReady = true ∧ (1 : Byte) ≠ 0 ∧
      s.transportResponds = granted (0 + 0 + 4) ++ [] ∧ s.sendAnswers = .ok :: [] ∧
      s.recvAnswers = .ok [0xE5] :: [] ∧ [0xE5#8].length = (1 : Byte).toNat ∧
      s.busyAnswers = idleAfter 0 ++ (idleAfter 0 ++ []) :=
  ⟨⟨rfl, rfl, rfl, rfl⟩, rfl, by decide, rfl, rfl, rfl, rfl, rfl⟩

/-- V-R2. -/
theorem witness_ShortCircuitRuns :
    let s := scripted (encode (.rdregs 0x53 0x32 6)) (0 + 2) [.transferError] [] (idleAfter 0 ++ [])
    s.AtPort (encode (.rdregs 0x53 0x32 6)) [] ∧ s.busReady = true ∧ (6 : Byte) ≠ 0 ∧
      s.transportResponds = granted (0 + 2) ++ [] ∧
      s.sendAnswers = .transferError :: [] ∧ s.busyAnswers = idleAfter 0 ++ [] :=
  ⟨⟨rfl, rfl, rfl, rfl⟩, rfl, by decide, rfl, rfl, rfl⟩

/-- V-I1. -/
theorem witness_RdidRuns :
    let s := scripted (encode .rdid) (0 + 1 + 4) [.ok] [.ok [0xE5]] (idleAfter 0 ++ (idleAfter 1 ++ []))
    s.AtPort (encode .rdid) [] ∧ s.busReady = true ∧ s.transportResponds = granted (0 + 1 + 4) ++ [] ∧
      s.sendAnswers = .ok :: [] ∧ s.recvAnswers = .ok [0xE5] :: [] ∧
      s.busyAnswers = idleAfter 0 ++ (idleAfter 1 ++ []) :=
  ⟨⟨rfl, rfl, rfl, rfl⟩, rfl, rfl, rfl, rfl, rfl⟩

/-- V-M1. -/
theorem witness_RdsmpRuns :
    let s := scripted (encode .rdsmp) (0 + 0 + 4) [.ok] [.ok [0x10, 0x00, 0xF0, 0xFF, 0x34, 0x12]]
      (idleAfter 0 ++ (idleAfter 0 ++ []))
    s.AtPort (encode .rdsmp) [] ∧ s.busReady = true ∧ s.transportResponds = granted (0 + 0 + 4) ++ [] ∧
      s.sendAnswers = .ok :: [] ∧
      s.recvAnswers = .ok [0x10, 0x00, 0xF0, 0xFF, 0x34, 0x12] :: [] ∧
      s.busyAnswers = idleAfter 0 ++ (idleAfter 0 ++ []) :=
  ⟨⟨rfl, rfl, rfl, rfl⟩, rfl, rfl, rfl, rfl, rfl⟩

/-- V-S3. -/
theorem witness_SinitRuns :
    let s := scripted (encode .sinit) (0 + 1 + 0 + 6) [.ok, .transferError, .transferError] []
      (idleAfter 0 ++ (idleAfter 1 ++ (idleAfter 0 ++ [])))
    s.AtPort (encode .sinit) [] ∧ s.busReady = true ∧ s.transportResponds = granted (0 + 1 + 0 + 6) ++ [] ∧
      s.delayCompletes = granted 3 ++ [] ∧
      s.sendAnswers = .ok :: .transferError :: .transferError :: [] ∧
      s.busyAnswers = idleAfter 0 ++ (idleAfter 1 ++ (idleAfter 0 ++ [])) :=
  ⟨⟨rfl, rfl, rfl, rfl⟩, rfl, rfl, rfl, rfl, rfl⟩

/-! For DECODE: -/

theorem witness_DecodeWritesAxes : noBus.opr = .none ∧ noBus.ph = .idle := by decide

/-- 0x80 is the first high byte of a negative axis, 0x7F the last of a positive one (V-D3). -/
theorem witness_DecodeArithmetic :
    (0x7F : Byte).toNat < 128 ∧ ¬ (0x80 : Byte).toNat < 128 ∧ decodeAxis 0xFF 0x7F = decodeAxis 0xFF 0x7F := by decide

/-- Two states that differ in `RXBUF[6]` and elsewhere (V-D8, S4). -/
theorem witness_DecodeIsPure :
    bench.opr = .none ∧ { noBus with rxbuf := noBus.rxbuf.set 6 0 }.opr = .none ∧
    (∀ (j : Nat) (h : j < 6), bench.rxbuf[j] = { noBus with rxbuf := noBus.rxbuf.set 6 0 }.rxbuf[j]) ∧
    (∃ t, exec .decode bench = .next t) ∧ ∃ t, exec .decode { noBus with rxbuf := noBus.rxbuf.set 6 0 } = .next t := by
  refine ⟨rfl, rfl, ?_, ⟨_, rfl⟩, ⟨_, rfl⟩⟩
  intro j h
  have : 6 ≠ j := by omega
  simp [bench, noBus, this]

/-! For frames and the rules of the whole machine: -/

theorem witness_WrregFrame : ∃ t, exec (.wrreg 0x53 0x2D 0x08) bench = .next t := ⟨_, rfl⟩

theorem witness_ReadFrame :
    opReads (Instr.rdregs 0 0 0).op = true ∧ ∃ t, exec (.rdregs 0 0 0) (during .rdregs .bRecv .ok) = .next t :=
  ⟨rfl, _, rfl⟩

/-- The byte at index 2 lies above the two bytes a read of length 2 may write; RDREGS is neither RDID nor RDSMP. -/
theorem witness_ReadFrame_clauses :
    (during .rdregs .bRecv .ok).len.toNat ≤ 2 ∧ bench.opr = .none ∧ (Instr.rdregs 0 0 0).op ≠ .rdid ∧
    (Instr.rdregs 0 0 0).op ≠ .rdsmp := by decide

theorem witness_SinitFrame : ∃ t, exec .sinit (during .sinit .sDelay .ok) = .next t := ⟨_, rfl⟩

theorem witness_BinitAndDecodeFrame :
    (∃ t, exec .binit noBus = .next t) ∧ ∃ t, exec .decode noBus = .next t := ⟨⟨_, rfl⟩, ⟨_, rfl⟩⟩

theorem witness_StatusWrittenAtReturn :
    ∃ t, exec (.wrreg 0x53 0x2D 0x08) bench = .next t ∧ t.opr ≠ .none := ⟨_, rfl, by decide⟩

/-- One state in which the transport responds and one in which it does not. -/
theorem witness_OneEventPerStep :
    (during .rdid .aSend .ok).rstSample = false ∧ (∃ t, runStep (during .rdid .aSend .ok).sampled = .next t) ∧
    (during .rdid .aSend .ok).responds (.tSend 0x11 [0x22] true .ok) = true ∧
    { during .rdid .aSend .ok with transportResponds := [false] }.responds (.tSend 0x11 [0x22] true .ok) = false :=
  ⟨rfl, ⟨_, rfl⟩, rfl, rfl⟩

theorem witness_OperationsNeverEmit : ∃ t, exec .rdid (during .rdid .aSend .ok) = .next t := ⟨_, rfl⟩

/-- A BINIT at the command port, about to succeed. -/
def binitAtPort : State := { atPort noBus 0x01000000#32 with initAnswers := [.ok] }

theorem witness_BusReadyOnlyByBinit_set :
    binitAtPort.rstSample = false ∧ binitAtPort.busReady = false ∧
    ∃ t, step binitAtPort = .next t ∧ t.busReady = true := ⟨rfl, rfl, _, rfl, by decide⟩

theorem witness_BusReadyOnlyByBinit_kept :
    (during .rdid .aSend .ok).busReady = true ∧ ∃ t, step (during .rdid .aSend .ok) = .next t := ⟨rfl, _, rfl⟩

theorem witness_WedgedBusHangs :
    let s := { during .wrreg .wPoll .ok with
      busyAnswers := List.replicate 3 true ++ [], transportResponds := granted 3 ++ [] }
    s.rst = [] ∧ opHasPhase s.opr s.ph = true ∧ s.ph.polls = true ∧ s.transportResponds = granted 3 ++ [] ∧
      s.busyAnswers = List.replicate 3 true ++ [] := by decide

/-! For the Loop Controller: -/

/-- The assembled block at step `p` of state `l`, with the status `c`. -/
def lcAt (l : LcState) (p : Fin 8) (c : Status) : State :=
  { bench with issuer := .loopController, lcs := l, lcp := p, status := c }

theorem lcAt_turn (l : LcState) (p : Fin 8) (c : Status) : (lcAt l p c).LcTurn := ⟨rfl, rfl, rfl⟩

theorem witness_LcsMovesForward :
    (∃ t, step (lcAt .uninitialized 2 .ok) = .next t ∧ t.lcs = .busReady) ∧
    (∃ t, step (lcAt .uninitialized 2 .config) = .next t ∧ t.lcs = .halted) ∧
    (∃ t, step (lcAt .busReady 2 .ok) = .next t ∧ t.lcs = .identityChecked) ∧
    (∃ t, step (lcAt .identityChecked 3 .ok) = .next t ∧ t.lcs = .measurementActive) ∧
    ∃ t, step (lcAt .measurementActive 0 .ok) = .next t ∧ t.lcs = .sampling :=
  ⟨⟨_, rfl, by decide⟩, ⟨_, rfl, by decide⟩, ⟨_, rfl, by decide⟩, ⟨_, rfl, by decide⟩, _, rfl, by decide⟩

theorem witness_FromUninitialized :
    (lcAt .uninitialized 0 .ok).LcTurn ∧ (lcAt .uninitialized 0 .ok).lcp = 0 ∧ (lcAt .uninitialized 1 .ok).lcp = 1 ∧
    (lcAt .uninitialized 2 .ok).lcp = 2 ∧ (lcAt .uninitialized 2 .ok).status = .ok ∧
    (lcAt .uninitialized 2 .busUnavailable).status ≠ .ok := ⟨lcAt_turn _ _ _, by decide⟩

/-- The block after a RDID that read the byte `b`. -/
def identified (b : Byte) (due : Bool) : State := { lcAt .busReady 1 .ok with ident := b, mismatchDue := due }

theorem witness_FromBusReady :
    (identified 0xE5 false).LcTurn ∧ (identified 0xE5 false).lcs = .busReady ∧ (identified 0xE5 false).lcp = 1 ∧
    (identified 0xE5 false).mismatchDue = false ∧ (identified 0xE5 false).status = .ok ∧
    (identified 0xE5 false).ident = 0xE5 ∧ (identified 0x00 false).ident ≠ 0xE5 ∧
    (identified 0x00 true).mismatchDue = true ∧ (lcAt .busReady 1 .transfer).status ≠ .ok ∧
    (lcAt .busReady 1 .transfer).mismatchDue = false ∧ (lcAt .busReady 0 .ok).lcp = 0 ∧
    (lcAt .busReady 2 .ok).lcp = 2 := ⟨⟨rfl, rfl, rfl⟩, by decide⟩

theorem witness_FromIdentityChecked :
    (lcAt .identityChecked 0 .ok).LcTurn ∧ (lcAt .identityChecked 0 .ok).lcp = 0 ∧
    { lcAt .identityChecked 1 .transfer with initErr := 0b010#3 }.initErr ≠ 0#3 ∧
    (lcAt .identityChecked 1 .ok).initErr = 0#3 ∧ (lcAt .identityChecked 2 .ok).lcp = 2 ∧
    (lcAt .identityChecked 3 .ok).lcp = 3 := ⟨lcAt_turn _ _ _, by decide⟩

theorem witness_FromMeasurementActive :
    (lcAt .measurementActive 0 .ok).LcTurn ∧ (lcAt .measurementActive 0 .ok).lcs = .measurementActive ∧
    (lcAt .measurementActive 0 .ok).lcp = 0 := ⟨lcAt_turn _ _ _, by decide⟩

theorem witness_SamplingCycle :
    (lcAt .sampling 0 .ok).LcTurn ∧ (lcAt .sampling 0 .ok).lcs = .sampling ∧ (lcAt .sampling 0 .ok).lcp = 0 ∧
    (lcAt .sampling 1 .ok).status = .ok ∧ (lcAt .sampling 1 .transfer).status ≠ .ok ∧
    (lcAt .sampling 2 .ok).lcp = 2 ∧ (lcAt .sampling 3 .ok).lcp = 3 := ⟨lcAt_turn _ _ _, by decide⟩

/-! For the invariants: states in the middle of the work -/

/-- A read of two bytes with its address frame accepted, about to receive. -/
def midRead : State :=
  { during .rdregs .bRecv .ok with
    trace := [.tBusy false, .tSend 0x11 [0x22] true .ok, .tInit 100000 .ok]
    recvAnswers := [.ok [0xAA, 0xBB]] }

theorem midRead_inv : midRead.Inv := by constructor <;> decide

theorem midRead_steps : ∃ t, step midRead = .next t := ⟨_, rfl⟩

theorem witness_StepKeepsInvAndNeverStops : midRead.Inv := midRead_inv

theorem witness_BusIdleBetweenTransfers : midRead.Inv ∧ midRead.BusInv ∧ ∃ t, step midRead = .next t :=
  ⟨midRead_inv, ⟨by decide, by decide⟩, midRead_steps⟩

theorem witness_ReadsPairedOnHeldBus : midRead.Inv ∧ midRead.HoldInv ∧ ∃ t, step midRead = .next t :=
  ⟨midRead_inv, ⟨by decide, by decide⟩, midRead_steps⟩

theorem witness_NoBusUseBeforeInit : midRead.Inv ∧ midRead.InitInv ∧ ∃ t, step midRead = .next t :=
  ⟨midRead_inv, ⟨by decide, by decide⟩, midRead_steps⟩

theorem witness_EventsWellFormed :
    midRead.Inv ∧ midRead.trace.all Event.wellFormed = true ∧ ∃ t, step midRead = .next t :=
  ⟨midRead_inv, by decide, midRead_steps⟩

/-- The assembled block after the first RDSMP of P2, the sample not yet reported. -/
def sampleDue : State :=
  { lcAt .sampling 1 .ok with
    len := 6
    ax := 0x0010
    ay := 0xFFF0
    az := 0x1234
    trace := [.tBusy false, .tRecv 0x53 6 .ok [0x10, 0x00, 0xF0, 0xFF, 0x34, 0x12], .tBusy false,
      .tSend 0x53 [0x32] true .ok, .emit .initDone, .emit (.ident 0xE5), .tBusy false, .tRecv 0x53 1 .ok [0xE5],
      .tBusy false, .tSend 0x53 [0x00] true .ok, .tInit 100000 .ok, .emit .initStart] }

theorem sampleDue_inv : sampleDue.Inv := by constructor <;> decide

theorem sampleDue_lcInv : sampleDue.LcInv := by constructor <;> decide

theorem sampleDue_steps : ∃ t, step sampleDue = .next t := ⟨_, rfl⟩

theorem witness_StepKeepsLcInv : sampleDue.Inv ∧ sampleDue.LcInv ∧ ∃ t, step sampleDue = .next t :=
  ⟨sampleDue_inv, sampleDue_lcInv, sampleDue_steps⟩

theorem witness_WritesSettleUnderController :
    sampleDue.Inv ∧ sampleDue.LcInv ∧ sampleDue.SettleInv ∧ ∃ t, step sampleDue = .next t :=
  ⟨sampleDue_inv, sampleDue_lcInv, ⟨by decide, by decide⟩, sampleDue_steps⟩

theorem witness_ReportsFaithfulToBytes :
    sampleDue.Inv ∧ sampleDue.LcInv ∧ sampleDue.ReportInv ∧ ∃ t, step sampleDue = .next t :=
  ⟨sampleDue_inv, sampleDue_lcInv, ⟨by decide, by decide, by decide, by decide⟩, sampleDue_steps⟩

theorem witness_ReportsInOrder :
    sampleDue.Inv ∧ sampleDue.LcInv ∧ reportStage sampleDue.trace = some sampleDue.reported ∧
      ∃ t, step sampleDue = .next t :=
  ⟨sampleDue_inv, sampleDue_lcInv, by decide, sampleDue_steps⟩

/-- The assembled block halted after a failed BINIT (P3). -/
def haltedBlock : State := { noBus with issuer := .loopController, lcs := .halted, status := .config }

theorem witness_HaltedIsFinal : haltedBlock.LcTurn ∧ haltedBlock.lcs = .halted ∧ haltedBlock.LcInv ∧ haltedBlock.Inv :=
  ⟨⟨rfl, rfl, rfl⟩, rfl, by constructor <;> decide, by constructor <;> decide⟩

theorem witness_HaltedIsFinal_unchanged :
    haltedBlock.rstSample = false ∧ step haltedBlock = .next haltedBlock.sampled := ⟨rfl, rfl⟩

end Sys2Proof.Tests
end

section
/-! The next step of the block: its inversion before it waits for a response, and the events it adds to the trace
(00_scope.md R8, 40_bus_transport.md R109). -/

namespace Sys2Proof.Machine

/-! ## The next step of the block (R8) -/

/-- With the reset input low a step is the block's next step, which waits for its response (R109). -/
theorem step_of_low {s : State} (h : s.rstSample = false) :
    step s = onceAnswered s.sampled (runStep s.sampled) := by
  simp [step, h]

/-- The block is between operations exactly when no instruction is in progress (10_state.md R23). -/
theorem State.inProgress_eq_none_iff (s : State) : s.inProgress = none ↔ s.opr = .none := by
  cases h : s.opr <;> simp [State.inProgress, h]

/-- The inversion of the block's next step: a step of the operation in progress, of the Loop Controller's turn or of
the command port's. -/
theorem runStep_inv {s t : State} (h : runStep s = .next t) :
    (∃ i, s.inProgress = some i ∧ ExecStep s i t) ∨
      (s.opr = .none ∧ s.issuer = .loopController ∧ LcMove s t) ∨
      (s.opr = .none ∧ s.issuer = .commandPort ∧ PortMove s t) := by
  unfold runStep at h
  cases hp : s.inProgress with
  | some i => simp only [hp] at h; exact .inl ⟨i, rfl, exec_step h⟩
  | none =>
    have free := s.inProgress_eq_none_iff.1 hp
    cases hi : s.issuer <;> simp only [hp, hi] at h
    · exact .inr (.inl ⟨free, rfl, lcStep_move h⟩)
    · exact .inr (.inr ⟨free, rfl, portStep_move h⟩)

/-! ## At most one event (R8) -/

/-- From `s` to `t` the trace stays as it is, or is longer by one event. -/
def AtMostOneEvent (s t : State) : Prop := t.trace = s.trace ∨ ∃ e, t.trace = e :: s.trace

/-- A step of an instruction has an event exactly where it calls an interface primitive (00_scope.md R7). -/
theorem ExecStep.atMostOneEvent {i : Instr} {s t : State} (h : ExecStep s i t) : AtMostOneEvent s t := by
  cases h with
  | notTaken | notReady | initAgain | decode | wrreg | rdregsZero | rdregs | rdid | rdsmp | sinit => exact .inl rfl
  | initOk | initFail | writeSent | addressSent | received | receiveFailed | settled | sinitReturn =>
    exact .inr ⟨_, rfl⟩
  | busy | wrregReturn | writeRecorded | addressAccepted | rdregsShort | rdidShort | rdsmpShort | rdregsReturn
  | rdidReturn | rdidFail | rdsmpReturn | rdsmpFail => exact .inr ⟨.tBusy s.busyAnswer, rfl⟩

/-- A turn of the Loop Controller issues an operation, or reports or waits once, or has no event (43_sampling_loop.md
R170). -/
theorem LcMove.atMostOneEvent {s t : State} (h : LcMove s t) : AtMostOneEvent s t := by
  cases h with
  | binit _ _ h | rdid _ _ h | sinit _ _ h | rdsmp _ _ h => exact (exec_step h).atMostOneEvent
  | ready | checked | writesOk | active | sample | again | halted => exact .inl rfl
  | start | halt | mismatch | identity | wrongIdentity | identityFailed | writesFailed | done | sampleOk
  | sampleFailed | delay => exact .inr ⟨_, rfl⟩

/-- A turn of the command port has no event but those of the instruction it takes (41_register_access.md R120). -/
theorem PortMove.atMostOneEvent {s t : State} (h : PortMove s t) : AtMostOneEvent s t := by
  cases h with
  | empty | illegal => exact .inl rfl
  | taken w ws i _ _ h => exact (exec_step h).atMostOneEvent

/-- The block's next step has at most one event, whoever takes it. -/
theorem runStep_atMostOneEvent {s t : State} (h : runStep s = .next t) : AtMostOneEvent s t := by
  rcases runStep_inv h with ⟨_, _, h⟩ | ⟨_, _, h⟩ | ⟨_, _, h⟩
  · exact h.atMostOneEvent
  · exact h.atMostOneEvent
  · exact h.atMostOneEvent

/-- The reset sample does not bear on whether the environment responds (log entries 4 and 7). -/
@[simp] theorem State.responds_sampled (s : State) (e : Event) : s.sampled.responds e = s.responds e := by
  cases e <;> rfl

end Sys2Proof.Machine

open Sys2Proof Sys2Proof.Machine

/-! ## The statements -/

/-- Settles O40: the step's one event, where it has one, decides whether it is taken. -/
theorem oneEventPerStep : Obligations.OneEventPerStep := by
  unfold Obligations.OneEventPerStep
  intro s t low next
  have taken : step s = .next (awaitResponse s.sampled t) := by rw [step_of_low low, next]; rfl
  rw [taken]
  rcases runStep_atMostOneEvent next with silent | ⟨e, event⟩
  · exact .inl ⟨silent, by rw [awaitResponse_silent silent]⟩
  · refine .inr ⟨e, event, fun answered => ?_, fun unanswered => ?_⟩
    · rw [awaitResponse_answered event (by simpa using answered)]
    · rw [awaitResponse_stuck event (by simpa using unanswered)]

/-- Settles O7: with the reset input low and OPR not 0, the operation in progress is the only case of a step left. -/
theorem stepContinuesOperation : Obligations.StepContinuesOperation := by
  unfold Obligations.StepContinuesOperation
  intro s low busy
  rcases step_cases s with ⟨high, _⟩ | ⟨_, ⟨_, i, running, op, taken⟩ | ⟨free, _⟩ | ⟨free, _⟩⟩
  · simp [low] at high
  · exact ⟨i, running, op, taken⟩
  · exact absurd free busy
  · exact absurd free busy

end

section
/-! What every step keeps of the control registers (10_state.md R21 to R26, R37): the invariant `Inv`, that no step
stops the machine, BUS_READY, LCS and STATUS. -/

namespace Sys2Proof.Machine

/-! ## The two parts of the invariant: the operation in progress, and where the Loop Controller stands -/

/-- The part of `Inv` about the operation in progress: its phase, the bus, and its latched operands (R23, R27). -/
structure State.OpInv (s : State) : Prop where
  phase : opHasPhase s.opr s.ph = true
  ready : s.opr ≠ .none → s.busReady = true
  length : opReads s.opr = true → s.len ≠ 0
  rdid : s.opr = .rdid → s.dev = Config.devAddr ∧ s.reg = Config.regDevid ∧ s.len = 1
  rdsmp : s.opr = .rdsmp → s.dev = Config.devAddr ∧ s.reg = Config.regDatax0 ∧ s.len = Config.sampleLen
  sinit : s.opr = .sinit → s.dev = Config.devAddr ∧ s.reg = sinitReg s.istep ∧ s.val = sinitVal s.istep

/-- The part of `Inv` about where the Loop Controller stands (R21, 43_sampling_loop.md R172). -/
structure State.PlaceInv (s : State) : Prop where
  lcp : s.lcp ≤ s.lcs.lastStep
  due : s.mismatchDue = true → s.lcs = .busReady ∧ s.lcp = 1

theorem State.inv_iff (s : State) : s.Inv ↔ s.OpInv ∧ s.PlaceInv :=
  ⟨fun ⟨phase, ready, length, lcp, rdid, rdsmp, sinit, due⟩ =>
      ⟨⟨phase, ready, length, rdid, rdsmp, sinit⟩, ⟨lcp, due⟩⟩,
    fun ⟨⟨phase, ready, length, rdid, rdsmp, sinit⟩, ⟨lcp, due⟩⟩ =>
      ⟨phase, ready, length, lcp, rdid, rdsmp, sinit, due⟩⟩

/-- What the operation in progress has to do with, but for its phase. -/
def State.operation (s : State) : Op × Bool × Fin 3 × DevAddr × Byte × Byte × Byte :=
  (s.opr, s.busReady, s.istep, s.dev, s.reg, s.val, s.len)

/-- The operation goes on to a phase of its own, everything it has to do with left as it is. -/
theorem State.OpInv.moved {s t : State} (inv : s.OpInv) (same : t.operation = s.operation)
    (phase : opHasPhase s.opr t.ph = true) : t.OpInv := by
  simp only [State.operation, Prod.mk.injEq] at same
  obtain ⟨opr, busReady, istep, dev, reg, val, len⟩ := same
  constructor <;> simp only [opr, busReady, istep, dev, reg, val, len]
  · exact phase
  · exact inv.ready
  · exact inv.length
  · exact inv.rdid
  · exact inv.rdsmp
  · exact inv.sinit

/-- Between operations nothing is asked of the operands. -/
theorem State.OpInv.of_free {s : State} (free : s.opr = .none) (idle : s.ph = .idle) : s.OpInv := by
  constructor <;> simp [free, idle, opHasPhase, opReads]

/-- Between operations PH is IDLE (R23). -/
theorem State.OpInv.ph_idle {s : State} (inv : s.OpInv) (free : s.opr = .none) : s.ph = .idle := by
  simpa [free, opHasPhase] using inv.phase

/-- LCS, LCP and the warning that is due are all that the second part speaks of. -/
theorem State.PlaceInv.kept {s t : State} (inv : s.PlaceInv) (lcs : t.lcs = s.lcs) (lcp : t.lcp = s.lcp)
    (due : t.mismatchDue = s.mismatchDue) : t.PlaceInv := by
  constructor <;> simp only [lcs, lcp, due]
  · exact inv.lcp
  · exact inv.due

/-- A step with no warning due leads to a step of its state. -/
theorem State.PlaceInv.of_notDue {s : State} (lcp : s.lcp ≤ s.lcs.lastStep) (due : s.mismatchDue = false) :
    s.PlaceInv := ⟨lcp, by simp [due]⟩

/-- No warning is due but in step 2 of BusReady (R172). -/
theorem State.PlaceInv.notDue {s : State} (inv : s.PlaceInv) (h : s.lcs = .busReady → s.lcp ≠ 1) :
    s.mismatchDue = false := by
  by_contra due
  obtain ⟨lcs, lcp⟩ := inv.due (by simpa using due)
  exact h lcs lcp

/-! ## Sampling the reset input, reset, and an asking keep the invariant -/

theorem State.Inv.sampled {s : State} (inv : s.Inv) : s.sampled.Inv := by
  obtain ⟨op, place⟩ := s.inv_iff.1 inv
  exact s.sampled.inv_iff.2 ⟨op.moved rfl op.phase, place.kept rfl rfl rfl⟩

theorem State.Inv.asked {s : State} (inv : s.Inv) (e : Event) : (s.asked e).Inv := by
  obtain ⟨op, place⟩ := s.inv_iff.1 inv
  exact (s.asked e).inv_iff.2 ⟨op.moved (by simp [State.operation]) (by simpa using op.phase),
    place.kept (by simp) (by simp) (by simp)⟩

/-- The invariant holds after every reset, whatever free draw it takes (R37). -/
theorem State.inv_resetAt (k : Nat) : (State.resetAt k).Inv :=
  (State.resetAt k).inv_iff.2 ⟨.of_free rfl rfl, .of_notDue (Fin.zero_le _) rfl⟩

theorem State.inv_resetBlock (s : State) : s.resetBlock.Inv := by
  obtain ⟨op, place⟩ := (State.resetAt s.draws).inv_iff.1 (State.inv_resetAt s.draws)
  exact s.resetBlock.inv_iff.2 ⟨op.moved rfl op.phase, place.kept rfl rfl rfl⟩

/-- The read operations share their four phases (41_register_access.md R122). -/
theorem opHasPhase_of_reads {op : Op} (reads : opReads op = true) (p : Phase) :
    opHasPhase op p = (p == .aSend || p == .aPoll || p == .bRecv || p == .bPoll) := by
  cases op with
  | rdregs | rdid | rdsmp => rfl
  | none | binit | wrreg | sinit | decode => cases reads

/-! ## A step of an instruction keeps the invariant -/

/-- An operation begins with its own operands and a ready bus, goes through its own phases, and ends between operations
(R23, R120, R202). -/
theorem ExecStep.keeps_opInv {i : Instr} {s t : State} (h : ExecStep s i t) (inv : s.OpInv) : t.OpInv := by
  cases h with
  | notTaken => exact inv
  | notReady _ free | initAgain free => exact .of_free free (inv.ph_idle free)
  | wrreg _ _ _ _ ready => exact ⟨rfl, fun _ => ready, nofun, nofun, nofun, nofun⟩
  | rdregs _ _ _ _ ready length => exact ⟨rfl, fun _ => ready, fun _ => length, nofun, nofun, nofun⟩
  | rdid _ ready =>
    exact ⟨rfl, fun _ => ready, fun _ => (by decide : (1 : Byte) ≠ 0), fun _ => ⟨rfl, rfl, rfl⟩, nofun, nofun⟩
  | rdsmp _ ready =>
    exact ⟨rfl, fun _ => ready, fun _ => (by decide : Config.sampleLen ≠ 0), nofun, fun _ => ⟨rfl, rfl, rfl⟩, nofun⟩
  | sinit _ ready => exact ⟨rfl, fun _ => ready, nofun, nofun, nofun, fun _ => ⟨rfl, rfl, rfl⟩⟩
  | settled op =>
    have ready := inv.ready (by simp [op])
    constructor <;> simp [op, opHasPhase, opReads, ready, State.latchSinit]
  | writeSent _ writes op =>
    refine inv.moved rfl ?_
    rcases writes with writes | writes <;> rw [op, writes] <;> rfl
  | addressSent _ reads op | received _ reads op | receiveFailed _ reads op | addressAccepted _ reads op =>
    refine inv.moved rfl ?_
    rw [op, opHasPhase_of_reads reads]
    rfl
  | busy => exact inv.moved rfl inv.phase
  | writeRecorded op => exact inv.moved rfl (by rw [op]; rfl)
  | initOk | initFail | decode | rdregsZero | wrregReturn | sinitReturn | rdregsShort | rdidShort | rdsmpShort
  | rdregsReturn | rdidReturn | rdidFail | rdsmpReturn | rdsmpFail => exact .of_free rfl rfl

/-- No step of an instruction moves the Loop Controller. -/
theorem ExecStep.keeps_placeInv {i : Instr} {s t : State} (h : ExecStep s i t) (inv : s.PlaceInv) : t.PlaceInv := by
  obtain ⟨lcs, lcp, due, _⟩ := h.keeps_controller
  exact inv.kept lcs lcp due

/-! ## A turn of the Loop Controller or of the command port keeps the invariant -/

/-- The controller's turn issues an operation from between operations, or leaves the operation's registers alone. -/
theorem LcMove.keeps_opInv {s t : State} (h : LcMove s t) (free : s.opr = .none) (inv : s.OpInv) : t.OpInv := by
  have idle := inv.ph_idle free
  cases h with
  | binit _ _ h | rdid _ _ h | sinit _ _ h | rdsmp _ _ h => exact (exec_step h).keeps_opInv (.of_free free idle)
  | start | ready | halt | mismatch | identity | wrongIdentity | identityFailed | checked | writesOk | writesFailed
  | done | active | sample | sampleOk | sampleFailed | delay | again | halted => exact .of_free free idle

/-- The controller goes to the next step of its state or to the first of another (R170). -/
theorem LcMove.keeps_placeInv {s t : State} (h : LcMove s t) (inv : s.PlaceInv) : t.PlaceInv := by
  cases h with
  | binit lcs lcp h | rdid lcs lcp h | sinit lcs lcp h | rdsmp lcs lcp h =>
    refine (exec_step h).keeps_placeInv (.of_notDue ?_ (inv.notDue (by simp [lcs, lcp])))
    simp [lcs, lcp, LcState.lastStep]
  | start lcs lcp | writesOk lcs lcp | writesFailed lcs lcp | done lcs lcp | sampleOk lcs lcp | sampleFailed lcs lcp
  | delay lcs lcp =>
    refine .of_notDue ?_ (inv.notDue (by simp [lcs, lcp]))
    simp [lcs, lcp, LcState.lastStep]
  | mismatch lcs lcp =>
    refine .of_notDue ?_ rfl
    simp [lcs, lcp, LcState.lastStep]
  | identity lcs lcp due | identityFailed lcs lcp due =>
    refine .of_notDue ?_ due
    simp [lcs, lcp, LcState.lastStep]
  | wrongIdentity lcs lcp => exact ⟨inv.lcp, fun _ => ⟨lcs, lcp⟩⟩
  | ready lcs lcp | halt lcs lcp | checked lcs lcp | active lcs lcp | sample lcs lcp | again lcs lcp =>
    exact .of_notDue (Fin.zero_le _) (inv.notDue (by simp [lcs, lcp]))
  | halted => exact inv

theorem PortMove.keeps_opInv {s t : State} (h : PortMove s t) (free : s.opr = .none) (inv : s.OpInv) : t.OpInv := by
  have idle := inv.ph_idle free
  cases h with
  | empty => exact inv
  | taken _ _ _ _ _ h => exact (exec_step h).keeps_opInv (.of_free free idle)
  | illegal => exact .of_free free idle

theorem PortMove.keeps_placeInv {s t : State} (h : PortMove s t) (inv : s.PlaceInv) : t.PlaceInv := by
  cases h with
  | empty => exact inv
  | taken _ _ _ _ _ h => exact (exec_step h).keeps_placeInv (inv.kept rfl rfl rfl)
  | illegal => exact inv.kept rfl rfl rfl

/-- The block's next step keeps the invariant, whoever takes it. -/
theorem runStep_keeps_inv {s t : State} (h : runStep s = .next t) (inv : s.Inv) : t.Inv := by
  obtain ⟨op, place⟩ := s.inv_iff.1 inv
  rw [t.inv_iff]
  rcases runStep_inv h with ⟨_, _, h⟩ | ⟨free, _, h⟩ | ⟨free, _, h⟩
  · exact ⟨h.keeps_opInv op, h.keeps_placeInv place⟩
  · exact ⟨h.keeps_opInv free op, h.keeps_placeInv place⟩
  · exact ⟨h.keeps_opInv free op, h.keeps_placeInv place⟩

/-! ## The block always has a next step: the fault `noRule` is not reached (log entry 12) -/

/-- An operation in progress that reads has a next step in each phase of its own. -/
theorem readPhase_next {finish : State → State} {s : State} (reads : opReads s.opr = true)
    (phase : opHasPhase s.opr s.ph = true) : ∃ t, readPhase finish s = .next t := by
  have own : s.ph = .aSend ∨ s.ph = .aPoll ∨ s.ph = .bRecv ∨ s.ph = .bPoll := by
    simpa [opHasPhase_of_reads reads, or_assoc] using phase
  rcases own with ph | ph | ph | ph <;> simp [readPhase, ph]

/-- WRREG in progress has a next step in each phase of its own. -/
theorem wrregPhase_next {s : State} (phase : opHasPhase .wrreg s.ph = true) : ∃ t, wrregPhase s = .next t := by
  have own : s.ph = .wSend ∨ s.ph = .wPoll := by simpa [opHasPhase] using phase
  rcases own with ph | ph <;> simp [wrregPhase, ph]

/-- SINIT in progress has a next step in each phase of its own. -/
theorem sinitPhase_next {s : State} (phase : opHasPhase .sinit s.ph = true) : ∃ t, sinitPhase s = .next t := by
  have own : s.ph = .wSend ∨ s.ph = .wPoll ∨ s.ph = .sDelay := by simpa [opHasPhase, or_assoc] using phase
  rcases own with ph | ph | ph <;> simp [sinitPhase, ph]

/-- Between operations every instruction begins or is refused. -/
theorem exec_next_of_free (i : Instr) {s : State} (free : s.opr = .none) : ∃ t, exec i s = .next t := by
  cases i <;>
    simp [exec_binit, exec_wrreg, exec_rdregs, exec_rdid, exec_sinit, exec_rdsmp, exec_decode, whenFree_free free]

/-- The operation in progress has a next step. -/
theorem exec_next_of_inProgress {i : Instr} {s : State} (inv : s.OpInv) (running : s.inProgress = some i) :
    ∃ t, exec i s = .next t := by
  have phase := inv.phase
  cases op : s.opr <;> simp only [State.inProgress, op, Option.some.injEq, reduceCtorEq] at running <;>
    rw [op] at phase
  case binit | decode => cases phase
  all_goals subst running
  case wrreg => rw [exec_wrreg, whenFree_busy op nofun]; exact wrregPhase_next phase
  case rdregs => rw [exec_rdregs, whenFree_busy op nofun]; exact readPhase_next (by rw [op]; rfl) inv.phase
  case rdid => rw [exec_rdid, whenFree_busy op nofun]; exact readPhase_next (by rw [op]; rfl) inv.phase
  case sinit => rw [exec_sinit, whenFree_busy op nofun]; exact sinitPhase_next phase
  case rdsmp => rw [exec_rdsmp, whenFree_busy op nofun]; exact readPhase_next (by rw [op]; rfl) inv.phase

/-- Between operations every word is taken or refused (30_encoding.md R74). -/
theorem issueWord_next (w : Word) {s : State} (free : s.opr = .none) : ∃ t, issueWord w s = .next t := by
  cases legal : decode w with
  | ok i => simpa [issueWord, legal] using exec_next_of_free i free
  | error => exact ⟨s.refuse .illegal, by simp [issueWord, legal]⟩

theorem portStep_next {s : State} (free : s.opr = .none) : ∃ t, portStep s = .next t := by
  cases words : s.cmds with
  | nil => exact ⟨s, by simp [portStep, words]⟩
  | cons w ws => simpa [portStep, words] using issueWord_next w (s := { s with cmds := ws }) free

/-- At every step of its state the Loop Controller has a turn (R170 to R178). -/
theorem lcStep_next {s : State} (free : s.opr = .none) (lcp : s.lcp ≤ s.lcs.lastStep) : ∃ t, lcStep s = .next t := by
  have issue (w : Word) : ∃ t, issueWord w s.nextLcp = .next t := issueWord_next w free
  have upTo0 : ∀ p : Fin 8, p ≤ 0 → p = 0 := by decide
  have upTo2 : ∀ p : Fin 8, p ≤ 2 → p = 0 ∨ p = 1 ∨ p = 2 := by decide
  have upTo3 : ∀ p : Fin 8, p ≤ 3 → p = 0 ∨ p = 1 ∨ p = 2 ∨ p = 3 := by decide
  cases lcs : s.lcs <;> rw [lcs] at lcp <;> simp only [lcStep, lcs]
  case uninitialized => rcases upTo2 _ lcp with p | p | p <;> simp [lcUninitialized, p, issue]
  case busReady => rcases upTo2 _ lcp with p | p | p <;> simp [lcBusReady, p, issue]
  case identityChecked => rcases upTo3 _ lcp with p | p | p | p <;> simp [lcIdentityChecked, p, issue]
  case measurementActive => simp [lcMeasurementActive, upTo0 _ lcp]
  case sampling => rcases upTo3 _ lcp with p | p | p | p <;> simp [lcSampling, p, issue]
  case halted => exact ⟨s, rfl⟩

/-- From a state that meets the invariant the block has a next step, whoever takes it. -/
theorem runStep_next {s : State} (inv : s.Inv) : ∃ t, runStep s = .next t := by
  obtain ⟨op, place⟩ := s.inv_iff.1 inv
  cases running : s.inProgress with
  | some i => simpa [runStep, running] using exec_next_of_inProgress op running
  | none =>
    have free := s.inProgress_eq_none_iff.1 running
    cases issuer : s.issuer
    · simpa [runStep, running, issuer] using lcStep_next free place.lcp
    · simpa [runStep, running, issuer] using portStep_next free

/-! ## STATUS (R24), BUS_READY (R22) and LCS (R21) -/

/-- A step of an instruction writes STATUS only where it leaves no operation in progress. -/
theorem ExecStep.keeps_status {i : Instr} {s t : State} (h : ExecStep s i t) (running : t.opr ≠ .none) :
    t.status = s.status := by
  cases h with
  | notReady _ free | initAgain free => exact absurd free running
  | initOk | initFail | decode | rdregsZero | wrregReturn | sinitReturn | rdregsShort | rdidShort | rdsmpShort
  | rdregsReturn | rdidReturn | rdidFail | rdsmpReturn | rdsmpFail => exact absurd rfl running
  | notTaken | wrreg | rdregs | rdid | rdsmp | sinit | writeSent | addressSent | received | receiveFailed | busy
  | writeRecorded | settled | addressAccepted => rfl

/-- From `s` to `t` BUS_READY stays as it is, or it is set with a `T.Init` that answers OK. -/
def BusReadyFromInit (s t : State) : Prop :=
  t.busReady = s.busReady ∨ (t.busReady = true ∧ t.trace = .tInit Config.busHz .ok :: s.trace)

/-- Of all steps of an instruction only a BINIT that succeeds writes BUS_READY (40_bus_transport.md R106). -/
theorem ExecStep.busReadyFromInit {i : Instr} {s t : State} (h : ExecStep s i t) : BusReadyFromInit s t := by
  cases h with
  | initOk _ _ answer => exact .inr ⟨rfl, by simp [answer]⟩
  | _ => exact .inl rfl

theorem LcMove.busReadyFromInit {s t : State} (h : LcMove s t) : BusReadyFromInit s t := by
  cases h with
  | binit _ _ h | rdid _ _ h | sinit _ _ h | rdsmp _ _ h => exact (exec_step h).busReadyFromInit
  | _ => exact .inl rfl

theorem PortMove.busReadyFromInit {s t : State} (h : PortMove s t) : BusReadyFromInit s t := by
  cases h with
  | taken _ _ _ _ _ h => exact (exec_step h).busReadyFromInit
  | empty | illegal => exact .inl rfl

theorem runStep_busReadyFromInit {s t : State} (h : runStep s = .next t) : BusReadyFromInit s t := by
  rcases runStep_inv h with ⟨_, _, h⟩ | ⟨_, _, h⟩ | ⟨_, _, h⟩ <;> exact h.busReadyFromInit

/-- LCS stays as it is or goes along one of the transitions of R21. -/
def LcState.StaysOrAdvances (l l' : LcState) : Prop :=
  l' ≠ l →
    (l = .uninitialized ∧ (l' = .busReady ∨ l' = .halted)) ∨ (l = .busReady ∧ l' = .identityChecked) ∨
    (l = .identityChecked ∧ l' = .measurementActive) ∨ (l = .measurementActive ∧ l' = .sampling)

theorem LcState.StaysOrAdvances.of_eq {l l' : LcState} (h : l' = l) : l.StaysOrAdvances l' := fun ne => absurd h ne

/-- Only the last step of a state before Sampling changes LCS (R171 to R174). -/
theorem LcMove.lcs_staysOrAdvances {s t : State} (h : LcMove s t) : s.lcs.StaysOrAdvances t.lcs := by
  cases h with
  | binit _ _ h | rdid _ _ h | sinit _ _ h | rdsmp _ _ h => exact .of_eq (exec_step h).keeps_controller.1
  | ready lcs => exact fun _ => .inl ⟨lcs, .inl rfl⟩
  | halt lcs => exact fun _ => .inl ⟨lcs, .inr rfl⟩
  | checked lcs => exact fun _ => .inr (.inl ⟨lcs, rfl⟩)
  | active lcs => exact fun _ => .inr (.inr (.inl ⟨lcs, rfl⟩))
  | sample lcs => exact fun _ => .inr (.inr (.inr ⟨lcs, rfl⟩))
  | start | mismatch | identity | wrongIdentity | identityFailed | writesOk | writesFailed | done | sampleOk
  | sampleFailed | delay | again | halted => exact .of_eq rfl

/-- The command port leaves LCS as it is. -/
theorem PortMove.keeps_lcs {s t : State} (h : PortMove s t) : t.lcs = s.lcs := by
  cases h with
  | taken _ _ _ _ _ h => exact (exec_step h).keeps_controller.1
  | empty | illegal => rfl

theorem runStep_lcs_staysOrAdvances {s t : State} (h : runStep s = .next t) : s.lcs.StaysOrAdvances t.lcs := by
  rcases runStep_inv h with ⟨_, _, h⟩ | ⟨_, _, h⟩ | ⟨_, _, h⟩
  · exact .of_eq h.keeps_controller.1
  · exact h.lcs_staysOrAdvances
  · exact .of_eq h.keeps_lcs

/-- With the reset input low a step that answers a next state is the block's next step, which waits for its response
(40_bus_transport.md R109). -/
theorem step_inv_of_low {s t : State} (low : s.rstSample = false) (h : step s = .next t) :
    ∃ u, runStep s.sampled = .next u ∧ t = awaitResponse s.sampled u := by
  rw [step_of_low low] at h
  exact onceAnswered_next h

end Sys2Proof.Machine

open Sys2Proof Sys2Proof.Machine

/-! ## The statements -/

/-- Settles O52: a reset leads to a state that meets the invariant; with no reset the block has a next step, which keeps
it, and so does waiting for the response. -/
theorem stepKeepsInvAndNeverStops : Obligations.StepKeepsInvAndNeverStops := by
  unfold Obligations.StepKeepsInvAndNeverStops
  intro s inv
  cases rst : s.rstSample
  · obtain ⟨u, next⟩ := runStep_next inv.sampled
    refine ⟨awaitResponse s.sampled u, by rw [step_of_low rst, next]; rfl, ?_⟩
    exact awaitResponse_keeps inv.sampled (runStep_keeps_inv next inv.sampled) fun _ e h => h.asked e
  · exact ⟨s.sampled.resetBlock, by simp [step, rst], s.sampled.inv_resetBlock⟩

/-- Settles O39: every way in which exec writes STATUS ends the operation or refuses it. -/
theorem statusWrittenAtReturn : Obligations.StatusWrittenAtReturn := by
  unfold Obligations.StatusWrittenAtReturn
  exact fun i s t next running => (exec_step next).keeps_status running

/-- Settles O42: BUS_READY follows `T.Init` in the block's next step, and waiting for the response adds nothing to
it. -/
theorem busReadyOnlyByBinit : Obligations.BusReadyOnlyByBinit := by
  unfold Obligations.BusReadyOnlyByBinit
  intro s t low next
  obtain ⟨u, run, rfl⟩ := step_inv_of_low low next
  have fromInit : BusReadyFromInit s (awaitResponse s.sampled u) :=
    awaitResponse_keeps (P := BusReadyFromInit s.sampled) (.inl rfl) (runStep_busReadyFromInit run)
      fun v e h => by simpa [BusReadyFromInit] using h
  rcases fromInit with kept | ⟨set, event⟩
  · rw [kept]
    exact ⟨id, fun off on => by simp [off] at on⟩
  · exact ⟨fun _ => set, fun _ _ => event⟩

/-- Settles O43: LCS advances with the Loop Controller's turn, and a turn that waits for its response leaves it. -/
theorem lcsMovesForward : Obligations.LcsMovesForward := by
  unfold Obligations.LcsMovesForward
  intro s t low next
  obtain ⟨u, run, rfl⟩ := step_inv_of_low low next
  exact awaitResponse_keeps (P := fun t => s.sampled.lcs.StaysOrAdvances t.lcs) (.of_eq rfl)
    (runStep_lcs_staysOrAdvances run) fun v e h => by simpa using h

/-- Settles O9: State.reset writes each of them. -/
theorem resetValues : Obligations.ResetValues := by
  unfold Obligations.ResetValues
  decide

/-- Settles O51: after reset no operation is in progress, the Loop Controller stands at its first step and the trace is
empty, so that nothing has been used, held or reported. -/
theorem invariantsAtReset : Obligations.InvariantsAtReset := by
  unfold Obligations.InvariantsAtReset
  exact ⟨State.inv_resetAt 0, ⟨rfl, nofun, rfl, rfl⟩, ⟨rfl, rfl⟩, ⟨rfl, rfl⟩, ⟨rfl, rfl⟩, ⟨rfl, by decide⟩,
    ⟨rfl, nofun, nofun, nofun⟩, rfl, rfl⟩

end

section
/-! The command word (30_encoding.md R71 to R74): the decoder and the encoder are inverse, the table of R73 has one row
for each operation and lists exactly the encodings, and an illegal word at the command port. -/

namespace Sys2Proof

/-! ## The decoder and the encoder are inverse (R71 to R73) -/

/-- Operand fields packed as zero are found zero. -/
@[simp] theorem withoutOperands_packWord (op : Op) (i : Instr) :
    withoutOperands (packWord op 0#7 0#8 0#8) i = .ok i := by
  simp [withoutOperands]

/-- The decoder finds the fields of a packed word as they were packed: its operation, and the operands it has. -/
theorem decode_encode (i : Instr) : decode (encode i) = .ok i := by
  cases i <;> simp [decode, encode]

/-- The inversion of the decoder: the reserved bits are zero, and the instruction is packed from the word's own fields,
those of an operation with no operands being zero (R73). -/
theorem decode_ok_fields {w : Word} {i : Instr} (h : decode w = .ok i) :
    zero5Field w = 0 ∧ zero1Field w = 0 ∧
      encode i = packWord (Op.ofCode (opField w)) (devField w) (regField w) (immField w) := by
  unfold decode at h
  split at h
  next reserved =>
    obtain ⟨zero5, zero1⟩ := reserved
    refine ⟨zero5, zero1, ?_⟩
    cases op : Op.ofCode (opField w) <;> simp only [op] at h
    case none => cases h
    case wrreg | rdregs => cases h; rfl
    case binit | rdid | sinit | rdsmp | decode =>
      obtain ⟨dev, reg, imm, rfl⟩ := withoutOperands_ok h
      rw [dev, reg, imm]; rfl
  next => cases h

/-- No bit of a word that decodes is dropped. -/
theorem encode_of_decode {w : Word} {i : Instr} (h : decode w = .ok i) : encode i = w := by
  obtain ⟨zero5, zero1, packed⟩ := decode_ok_fields h
  rw [packed, packWord_fields w zero5 zero1]

theorem decode_ok_iff (w : Word) (i : Instr) : decode w = .ok i ↔ encode i = w :=
  ⟨encode_of_decode, fun h => h ▸ decode_encode i⟩

/-! ## The table of R73 -/

/-- The table has a row for each operation code but 0, and no second one. -/
theorem opcodeTable_countP_code_le_one (c : BitVec 3) : opcodeTable.countP (fun r => r.op.code == c) ≤ 1 := by
  revert c; decide

theorem exists_row_code_eq_iff (c : BitVec 3) : (∃ r ∈ opcodeTable, r.op.code = c) ↔ c ≠ 0 := by
  revert c; decide

/-- No word selects two rows: the rows it selects have its own operation code. -/
theorem opcodeTable_selects_unique (w : Word) : (opcodeTable.filter fun r => r.selects w).length ≤ 1 := by
  have own : ∀ r ∈ opcodeTable, r.selects w = true → (r.op.code == opField w) = true := by
    intro r row selects
    obtain ⟨_, _, code, _⟩ := (opcodeTable_selects w r row).1 selects
    exact beq_iff_eq.2 code.symm
  calc (opcodeTable.filter fun r => r.selects w).length
      = opcodeTable.countP fun r => r.selects w := List.countP_eq_length_filter.symm
    _ ≤ opcodeTable.countP fun r => r.op.code == opField w := List.countP_mono_left own
    _ ≤ 1 := opcodeTable_countP_code_le_one (opField w)

/-- Every packed word whose operands fit its operation is an encoding. -/
theorem exists_encode_eq_packWord {op : Op} (known : op ≠ .none) (dev : DevAddr) (reg imm : Byte)
    (operands : op ≠ .wrreg → op ≠ .rdregs → dev = 0 ∧ reg = 0 ∧ imm = 0) :
    ∃ i : Instr, i.op = op ∧ encode i = packWord op dev reg imm := by
  cases op
  case none => exact absurd rfl known
  case wrreg => exact ⟨.wrreg dev reg imm, rfl, rfl⟩
  case rdregs => exact ⟨.rdregs dev reg imm, rfl, rfl⟩
  all_goals obtain ⟨rfl, rfl, rfl⟩ := operands nofun nofun
  case binit => exact ⟨.binit, rfl, rfl⟩
  case rdid => exact ⟨.rdid, rfl, rfl⟩
  case sinit => exact ⟨.sinit, rfl, rfl⟩
  case rdsmp => exact ⟨.rdsmp, rfl, rfl⟩
  case decode => exact ⟨.decode, rfl, rfl⟩

theorem opcodeTable_op_ne_none : ∀ r ∈ opcodeTable, r.op ≠ .none := by decide

/-- A word that selects a row is the encoding of an instruction of the row's operation. -/
theorem exists_encode_of_selects {w : Word} {r : OpcodeRow} (row : r ∈ opcodeTable) (selects : r.selects w = true) :
    ∃ i : Instr, i.op = r.op ∧ encode i = w := by
  obtain ⟨zero5, zero1, code, operands⟩ := (opcodeTable_selects w r row).1 selects
  have packed := packWord_fields w zero5 zero1
  rw [code, ofCode_code] at packed
  rw [← packed]
  exact exists_encode_eq_packWord (opcodeTable_op_ne_none r row) _ _ _ operands

/-- An encoding is a legal word, operation by operation. -/
theorem legalWord_encode (i : Instr) : legalWord (encode i) = true := by
  cases i with
  | binit => exact Laws.EncodeLegal.binit
  | wrreg dev reg val => exact Laws.EncodeLegal.wrreg dev reg val
  | rdregs dev reg len => exact Laws.EncodeLegal.rdregs dev reg len
  | rdid => exact Laws.EncodeLegal.rdid
  | sinit => exact Laws.EncodeLegal.sinit
  | rdsmp => exact Laws.EncodeLegal.rdsmp
  | decode => exact Laws.EncodeLegal.decode

/-- The `op` field of an encoding is its operation's code (R71). -/
@[simp] theorem opField_encode (i : Instr) : opField (encode i) = i.op.code := by
  cases i <;> exact opField_packWord _ _ _ _

/-- An encoding selects the row of its own operation. -/
theorem encode_selects_row (i : Instr) : ∃ r ∈ opcodeTable, r.selects (encode i) = true ∧ r.op = i.op := by
  obtain ⟨r, row, selects⟩ := List.any_eq_true.1 (legalWord_encode i)
  obtain ⟨_, _, code, _⟩ := (opcodeTable_selects _ r row).1 selects
  exact ⟨r, row, selects, code_inj (by rw [← code, opField_encode])⟩

/-! ## Illegal words (R74) -/

/-- A legal word by its fields: which rows there are, and which of them fix the operands. -/
theorem legalWord_iff_fields (w : Word) :
    legalWord w = true ↔ zero5Field w = 0 ∧ zero1Field w = 0 ∧ opField w ≠ 0 ∧
      (opField w ≠ 2 → opField w ≠ 3 → devField w = 0 ∧ regField w = 0 ∧ immField w = 0) := by
  have code_ne {a b : Op} : a.code ≠ b.code ↔ a ≠ b := not_congr ⟨code_inj, congrArg Op.code⟩
  rw [legalWord, List.any_eq_true, ← exists_row_code_eq_iff]
  constructor
  · rintro ⟨r, row, selects⟩
    obtain ⟨zero5, zero1, code, operands⟩ := (opcodeTable_selects w r row).1 selects
    refine ⟨zero5, zero1, ⟨r, row, code.symm⟩, fun wrreg rdregs => operands ?_ ?_⟩
    · rw [code] at wrreg; exact code_ne (b := .wrreg).1 wrreg
    · rw [code] at rdregs; exact code_ne (b := .rdregs).1 rdregs
  · rintro ⟨zero5, zero1, ⟨r, row, code⟩, operands⟩
    refine ⟨r, row, (opcodeTable_selects w r row).2 ⟨zero5, zero1, code.symm, fun wrreg rdregs => operands ?_ ?_⟩⟩
    · rw [← code]; exact code_ne (b := .wrreg).2 wrreg
    · rw [← code]; exact code_ne (b := .rdregs).2 rdregs

/-- `op` by shift and mask. -/
theorem shift_op_eq_iff (w : Word) (c : BitVec 3) : w >>> 24 &&& 7#32 = c.setWidth 32 ↔ opField w = c := by
  have mask : w.toNat >>> 24 &&& 7 = (w.toNat >>> 24) % 2 ^ 3 := Nat.and_two_pow_sub_one_eq_mod _ 3
  have := c.isLt
  simp only [← BitVec.toNat_inj, opField, BitVec.extractLsb'_toNat, BitVec.toNat_and, BitVec.toNat_ushiftRight,
    BitVec.toNat_ofNat, BitVec.toNat_setWidth, Nat.reducePow, Nat.reduceMod, mask]
  omega

/-- `zero5` by shift. -/
theorem shift_zero5_eq_zero_iff (w : Word) : w >>> 27 = 0 ↔ zero5Field w = 0 := by
  have := w.isLt
  simp only [← BitVec.toNat_inj, zero5Field, BitVec.extractLsb'_toNat, BitVec.toNat_ushiftRight,
    BitVec.ofNat_eq_ofNat, BitVec.toNat_ofNat]
  omega

/-- `zero1` by shift and mask. -/
theorem shift_zero1_eq_zero_iff (w : Word) : w >>> 23 &&& 1#32 = 0 ↔ zero1Field w = 0 := by
  have mask : w.toNat >>> 23 &&& 1 = (w.toNat >>> 23) % 2 ^ 1 := Nat.and_two_pow_sub_one_eq_mod _ 1
  simp only [← BitVec.toNat_inj, zero1Field, BitVec.extractLsb'_toNat, BitVec.toNat_and, BitVec.toNat_ushiftRight,
    BitVec.ofNat_eq_ofNat, BitVec.toNat_ofNat, Nat.reducePow, Nat.reduceMod, mask]

/-- The three operand fields by one mask. -/
theorem mask_operands_eq_zero_iff (w : Word) :
    w &&& 0x007FFFFF#32 = 0 ↔ devField w = 0 ∧ regField w = 0 ∧ immField w = 0 := by
  have mask : w.toNat &&& 0x007FFFFF = w.toNat % 2 ^ 23 := Nat.and_two_pow_sub_one_eq_mod _ 23
  simp only [← BitVec.toNat_inj, devField, regField, immField, BitVec.extractLsb'_toNat, BitVec.toNat_and,
    BitVec.ofNat_eq_ofNat, BitVec.toNat_ofNat, Nat.reducePow, Nat.reduceMod, mask]
  omega

/-- R74's ways to be illegal, with the fields taken by shifts and masks. -/
theorem legalWord_eq_false_iff (w : Word) :
    legalWord w = false ↔
      w >>> 24 &&& 7#32 = 0 ∨ w >>> 27 ≠ 0 ∨ w >>> 23 &&& 1#32 ≠ 0 ∨
      (w >>> 24 &&& 7#32 ≠ 2 ∧ w >>> 24 &&& 7#32 ≠ 3 ∧ w &&& 0x007FFFFF#32 ≠ 0) := by
  have op0 : w >>> 24 &&& 7#32 = 0 ↔ opField w = 0 := shift_op_eq_iff w 0
  have op2 : w >>> 24 &&& 7#32 = 2 ↔ opField w = 2 := shift_op_eq_iff w 2
  have op3 : w >>> 24 &&& 7#32 = 3 ↔ opField w = 3 := shift_op_eq_iff w 3
  simp only [← Bool.not_eq_true, legalWord_iff_fields, ne_eq, op0, op2, op3, shift_zero5_eq_zero_iff,
    shift_zero1_eq_zero_iff, mask_operands_eq_zero_iff]
  tauto

end Sys2Proof

namespace Sys2Proof.Machine

/-! ## The command port -/

/-- With no reset sample left, sampling changes nothing (log entry 7). -/
theorem State.sampled_of_low {s : State} (low : s.rst = []) : s.sampled = s := by
  cases s; cases low; rfl

/-- A next state with no event waits for nothing (40_bus_transport.md R109). -/
theorem onceAnswered_silent {s t : State} (silent : t.trace = s.trace) : onceAnswered s (.next t) = .next t :=
  congrArg Host.Outcome.next (awaitResponse_silent silent)

/-- A step at the command port issues the word that waits, and waits for its response. -/
theorem step_atPort {s : State} {w : Word} {ws : List Word} (port : s.AtPort w ws) :
    step s = onceAnswered s (issueWord w { s with cmds := ws }) := by
  obtain ⟨low, free, issuer, word⟩ := port
  rw [step_of_low (by simp [State.rstSample, low]), State.sampled_of_low low]
  simp [runStep, s.inProgress_eq_none_iff.2 free, issuer, portStep, word]

/-- An illegal word is refused: a word that decodes is an encoding, hence legal (R74). -/
theorem issueWord_illegal {w : Word} (illegal : legalWord w = false) (s : State) :
    issueWord w s = .next (s.refuse .illegal) := by
  cases decoded : decode w with
  | error e => simp [issueWord, decoded]
  | ok i => simp [← encode_of_decode decoded, legalWord_encode] at illegal

/-! ## Admission to the bus (41_register_access.md R120) -/

/-- With no operation in progress and the bus ready, a bus operation begins. -/
theorem whenFree_admitBus_ready {s : State} (free : s.opr = .none) (ready : s.busReady = true) (op : Op)
    (start : State → State) (resume : State → Host.Outcome State Fault Refusal) :
    whenFree op (admitBus start) resume s = .next (start s) := by
  simp [whenFree_free free, admitBus, ready]

end Sys2Proof.Machine

open Sys2Proof Sys2Proof.Machine

/-! ## The statements -/

/-- Settles O1, operation by operation. -/
theorem decodeEncodeRoundTrip : Obligations.DecodeEncodeRoundTrip := by
  unfold Obligations.DecodeEncodeRoundTrip
  exact decode_encode

/-- Settles O2: a decoded instruction is packed from the fields of its word. -/
theorem decodeOnlyEncodings : Obligations.DecodeOnlyEncodings := by
  unfold Obligations.DecodeOnlyEncodings
  exact fun _ _ => encode_of_decode

/-- Settles O3: the words that select a row, and the words that decode, are the encodings. -/
theorem decodeSelectsTheRow : Obligations.DecodeSelectsTheRow := by
  unfold Obligations.DecodeSelectsTheRow
  refine fun w => ⟨opcodeTable_selects_unique w, fun r row selects => ?_, fun i decoded => ?_⟩
  · obtain ⟨i, op, rfl⟩ := exists_encode_of_selects row selects
    exact ⟨i, decode_encode i, op⟩
  · rw [← encode_of_decode decoded]
    exact encode_selects_row i

/-- Settles O4: the table's rows by their fields; and a refusal adds nothing to the trace, so that it waits for
nothing. -/
theorem illegalWordRefused : Obligations.IllegalWordRefused := by
  unfold Obligations.IllegalWordRefused
  refine ⟨legalWord_eq_false_iff, fun s w ws port illegal => ?_, ?_⟩
  · rw [step_atPort port, issueWord_illegal illegal]
    exact onceAnswered_silent rfl
  · have issued : [0x01000000#32, 0x04000000#32, 0x05000000#32, 0x06000000#32] =
        [Instr.binit, .rdid, .sinit, .rdsmp].map encode := by decide
    rw [issued]
    exact List.forall_mem_map.2 fun i _ => legalWord_encode i

/-- Settles O5: the decoder evaluates each word. -/
theorem specWordsDecode : Obligations.SpecWordsDecode := by
  unfold Obligations.SpecWordsDecode
  decide

/-- Settles O12: each bus operation is admitted, and its start writes the latches of its own. -/
theorem busOperationsBegin : Obligations.BusOperationsBegin := by
  unfold Obligations.BusOperationsBegin
  intro s free ready
  have begins := whenFree_admitBus_ready free ready
  refine ⟨fun dev reg val => ?_, fun dev reg len nonzero => ?_, ?_, ?_, ?_⟩
  · rw [exec_wrreg, begins]; rfl
  · rw [exec_rdregs, begins, beginRdregs, if_neg nonzero]; rfl
  · rw [exec_rdid, begins]; rfl
  · rw [exec_rdsmp, begins]; rfl
  · rw [exec_sinit, begins]; rfl

end

section
/-! The bus transport (40_bus_transport.md): what a step of an operation asks of the bus, that the bus is used only
after a successful `T.Init` (R100), BINIT (R106), the repeated poll (R105), and what BINIT and DECODE leave unchanged. -/

namespace Sys2Proof

/-- No instruction has the operation code 0 (30_encoding.md R72). -/
theorem Instr.op_ne_none (i : Instr) : i.op ≠ .none := by cases i <;> exact nofun

end Sys2Proof

namespace Sys2Proof.Machine

/-! ## What an operation's step asks of the environment (00_scope.md R7, R8) -/

/-- The event needs an initialised bus (R100). -/
def Event.usesBus : Event → Bool
  | .tInit _ _ => false
  | .tSend _ _ _ _ => true
  | .tRecv _ _ _ _ => true
  | .tBusy _ => true
  | .delay _ => false
  | .emit _ => false

/-- `OpRequest s t`: what a step of an operation from `s` to `t` adds to the trace, and what becomes of BUS_READY. -/
inductive OpRequest (s t : State) : Prop where
  /-- The step has no event. -/
  | silent : t.trace = s.trace → t.busReady = s.busReady → OpRequest s t
  /-- BINIT on a bus that is not ready (R106). -/
  | init (r : InitResult) : s.busReady = false → t.trace = .tInit Config.busHz r :: s.trace →
      t.busReady = (r == .ok) → OpRequest s t
  /-- An operation in progress sends, receives or polls (R102 to R104). -/
  | bus (e : Event) : s.opr ≠ .none → e.usesBus = true → t.trace = e :: s.trace → t.busReady = s.busReady →
      OpRequest s t
  /-- SINIT lets a write settle (42_sensor_driver.md R141). -/
  | settle : t.trace = .delay Config.settleMs :: s.trace → t.busReady = s.busReady → OpRequest s t

/-- A step of an instruction makes at most one request, and uses the bus only while its operation is in progress. -/
theorem ExecStep.opRequest {i : Instr} {s t : State} (h : ExecStep s i t) : OpRequest s t := by
  cases h with
  | notTaken | notReady | initAgain | decode | wrreg | rdregsZero | rdregs | rdid | rdsmp | sinit =>
    exact .silent rfl rfl
  | initOk _ unready answer => exact .init .ok unready (by simp [answer]) rfl
  | initFail _ unready answer => exact .init s.initAnswer unready rfl (by simpa [unready] using answer)
  | writeSent _ _ op | addressSent _ _ op | received _ _ op | receiveFailed _ _ op =>
    exact .bus _ (op ▸ i.op_ne_none) rfl rfl rfl
  | busy _ op | addressAccepted _ _ op => exact .bus (.tBusy s.busyAnswer) (op ▸ i.op_ne_none) rfl rfl rfl
  | wrregReturn _ _ _ op | writeRecorded op | rdregsShort _ _ _ op | rdidShort op | rdsmpShort op
  | rdregsReturn _ _ _ op | rdidReturn op | rdidFail op | rdsmpReturn op | rdsmpFail op =>
    exact .bus (.tBusy s.busyAnswer) (by simp [op]) rfl rfl rfl
  | settled | sinitReturn => exact .settle rfl rfl

/-- None of the requests of an operation is a report (R108). -/
theorem OpRequest.trace_ne_emit {s t : State} (h : OpRequest s t) (r : Report) : t.trace ≠ .emit r :: s.trace := by
  cases h with
  | silent trace => simp [trace]
  | init _ _ trace => simp [trace]
  | settle trace => simp [trace]
  | bus e _ uses trace =>
    rw [trace]
    rintro ⟨⟩
    cases uses

/-! ## The bus is used only after a successful `T.Init`, and no `T.Init` follows one (R100) -/

/-- The bus may see the event while BUS_READY is `ready`: `T.Init` while it is 0, the other primitives of the transport
while it is 1. -/
def Event.allowedWhen (ready : Bool) : Event → Bool
  | .tInit _ _ => !ready
  | .tSend _ _ _ _ => ready
  | .tRecv _ _ _ _ => ready
  | .tBusy _ => ready
  | .delay _ => true
  | .emit _ => true

theorem usedAfterInit_cons (e : Event) (tr : List Event) :
    usedAfterInit (e :: tr) = (e.allowedWhen (tr.any Event.isInitOk) && usedAfterInit tr) := by
  cases e <;> rfl

theorem Event.allowedWhen_of_usesBus {e : Event} (uses : e.usesBus = true) : e.allowedWhen true = true := by
  cases e with
  | tSend | tRecv | tBusy => rfl
  | tInit | delay | emit => cases uses

theorem Event.isInitOk_of_usesBus {e : Event} (uses : e.usesBus = true) : e.isInitOk = false := by
  cases e with
  | tSend | tRecv | tBusy => rfl
  | tInit | delay | emit => cases uses

/-- The trace and BUS_READY are all that the invariant speaks of. -/
theorem State.InitInv.kept {s t : State} (inv : s.InitInv) (trace : t.trace = s.trace)
    (ready : t.busReady = s.busReady) : t.InitInv :=
  ⟨by rw [trace]; exact inv.trace, by rw [trace, ready]; exact inv.ready⟩

/-- An event that BUS_READY allows keeps the invariant, when BUS_READY follows a `T.Init` that answers OK (R22). -/
theorem State.InitInv.logged {s t : State} {e : Event} (inv : s.InitInv) (trace : t.trace = e :: s.trace)
    (allowed : e.allowedWhen s.busReady = true) (ready : t.busReady = (e.isInitOk || s.busReady)) : t.InitInv := by
  constructor
  · rw [trace, usedAfterInit_cons, ← inv.ready, allowed, inv.trace]; rfl
  · rw [trace, ready, inv.ready, List.any_cons]

/-- The request of an operation keeps the invariant: one that uses the bus is made by an operation in progress, whose
bus is ready. -/
theorem OpRequest.keeps_initInv {s t : State} (h : OpRequest s t) (bus : s.opr ≠ .none → s.busReady = true)
    (inv : s.InitInv) : t.InitInv := by
  cases h with
  | silent trace ready => exact inv.kept trace ready
  | init r unready trace ready =>
    refine inv.logged trace ?_ ?_
    · rw [unready]; rfl
    · rw [ready, unready, Bool.or_false]; rfl
  | settle trace ready => exact inv.logged trace rfl ready
  | bus e running uses trace ready =>
    refine inv.logged trace ?_ ?_
    · rw [bus running]; exact Event.allowedWhen_of_usesBus uses
    · rw [ready, Event.isInitOk_of_usesBus uses]; rfl

/-- Beside the operations it issues, the Loop Controller only reports and waits (43_sampling_loop.md R170). -/
theorem LcMove.keeps_initInv {s t : State} (h : LcMove s t) (free : s.opr = .none) (inv : s.InitInv) : t.InitInv := by
  cases h with
  | binit _ _ h | rdid _ _ h | sinit _ _ h | rdsmp _ _ h =>
    exact (exec_step h).opRequest.keeps_initInv (absurd free) (inv.kept rfl rfl)
  | ready | checked | writesOk | active | sample | again | halted => exact inv.kept rfl rfl
  | start | halt | mismatch | identity | wrongIdentity | identityFailed | writesFailed | done | sampleOk
  | sampleFailed | delay => exact inv.logged rfl rfl rfl

theorem PortMove.keeps_initInv {s t : State} (h : PortMove s t) (free : s.opr = .none) (inv : s.InitInv) :
    t.InitInv := by
  cases h with
  | taken _ _ _ _ _ h => exact (exec_step h).opRequest.keeps_initInv (absurd free) (inv.kept rfl rfl)
  | empty | illegal => exact inv.kept rfl rfl

/-- The block's next step keeps the invariant, whoever takes it. -/
theorem runStep_keeps_initInv {s t : State} (h : runStep s = .next t) (bus : s.opr ≠ .none → s.busReady = true)
    (inv : s.InitInv) : t.InitInv := by
  rcases runStep_inv h with ⟨_, _, h⟩ | ⟨free, _, h⟩ | ⟨free, _, h⟩
  · exact h.opRequest.keeps_initInv bus inv
  · exact h.keeps_initInv free inv
  · exact h.keeps_initInv free inv

/-! ## BINIT (R106) and DECODE (42_sensor_driver.md R147): one step each -/

/-- Between operations a return writes STATUS only (R23, 60_exceptions.md R202). -/
theorem State.ret_of_free {s : State} (free : s.opr = .none) (idle : s.ph = .idle) (c : Status) :
    s.ret c = { s with status := c } := by
  simp only [State.ret, ← free, ← idle]

/-- A `T.Init` that answers OK sets BUS_READY (R106). -/
theorem initBus_ok {s : State} (answer : s.initAnswer = .ok) :
    initBus s = { s.tInit Config.busHz with busReady := true }.ret .ok := by
  simp [initBus, answer, initStatus]

/-- A `T.Init` that fails leaves BUS_READY (R106). -/
theorem initBus_failed {s : State} (answer : s.initAnswer ≠ .ok) :
    initBus s = (s.tInit Config.busHz).ret (initStatus s.initAnswer) := by
  simp [initBus, answer]

/-- The status of a `T.Init` that fails (30_encoding.md R80). -/
theorem initStatus_failed {r : InitResult} (failed : r ≠ .ok) :
    initStatus r = if r = .config then .config else .busUnavailable := by
  cases r with
  | ok => exact absurd rfl failed
  | busUnavailable | config => rfl

/-- Everything BINIT can do: the word is not taken, it is refused, or the bus is initialised. -/
theorem exec_binit_cases {s t : State} (h : exec .binit s = .next t) :
    t = s ∨ (s.opr = .none ∧ (t = s.refuse .illegal ∨ t = initBus s)) := by
  rw [exec_binit] at h
  rcases whenFree_cases h with ⟨free, h⟩ | ⟨_, _, h⟩ | ⟨_, _, h⟩
  · cases h
    refine .inr ⟨free, ?_⟩
    split
    · exact .inl rfl
    · exact .inr rfl
  · cases h
  · cases h; exact .inl rfl

/-- Everything DECODE can do: the word is not taken, or the axes are decoded. -/
theorem exec_decode_cases {s t : State} (h : exec .decode s = .next t) :
    t = s ∨ (s.opr = .none ∧ t = s.latchSample.ret .ok) := by
  rw [exec_decode] at h
  rcases whenFree_cases h with ⟨free, h⟩ | ⟨_, _, h⟩ | ⟨_, _, h⟩
  · cases h; exact .inr ⟨free, rfl⟩
  · cases h
  · cases h; exact .inl rfl

/-- What BINIT writes: BUS_READY, STATUS, the event and its answer, and PH only to IDLE. -/
theorem exec_binit_writes {s t : State} (h : exec .binit s = .next t) :
    ∃ ready c tr answers n ph, (s.ph = .idle → ph = .idle) ∧
      t = { s with busReady := ready, status := c, trace := tr, initAnswers := answers, draws := n, ph := ph } := by
  rcases exec_binit_cases h with rfl | ⟨free, rfl | rfl⟩
  · exact ⟨_, _, _, _, _, _, id, rfl⟩
  · exact ⟨_, _, _, _, _, _, id, rfl⟩
  · by_cases answer : s.initAnswer = .ok
    · exact ⟨_, _, _, _, _, .idle, fun _ => rfl, by simp only [initBus_ok answer, State.ret, ← free]; rfl⟩
    · exact ⟨_, _, _, _, _, .idle, fun _ => rfl, by simp only [initBus_failed answer, State.ret, ← free]; rfl⟩

/-- What DECODE writes: the axes, STATUS, and PH only to IDLE. -/
theorem exec_decode_writes {s t : State} (h : exec .decode s = .next t) :
    ∃ x y z c ph, (s.ph = .idle → ph = .idle) ∧ t = { s with ax := x, ay := y, az := z, status := c, ph := ph } := by
  rcases exec_decode_cases h with rfl | ⟨free, rfl⟩
  · exact ⟨_, _, _, _, _, id, rfl⟩
  · exact ⟨_, _, _, _, .idle, fun _ => rfl, by simp only [State.ret, ← free]; rfl⟩

/-! ## The busy-poll (R105) -/

theorem Phase.polls_iff (p : Phase) : p.polls = true ↔ p = .wPoll ∨ p = .aPoll ∨ p = .bPoll := by
  cases p <;> decide

/-- A poll that answers true is all that the turn does. -/
theorem pollThen_busy {s : State} (busy : s.busyAnswer = true) (done : State → State) :
    pollThen done s = s.polled true := by
  rw [pollThen, if_pos busy, tIsBusy_eq s busy]

/-- RDREGS, RDID and RDSMP go through the same phases; they differ in how they begin and end (R122, R144, R146). -/
theorem exec_of_reads {i : Instr} (reads : opReads i.op = true) :
    ∃ start finish, ∀ s, exec i s = whenFree i.op start (readPhase finish) s := by
  cases i with
  | rdregs | rdid | rdsmp => exact ⟨_, _, fun _ => rfl⟩
  | binit | wrreg | sinit | decode => cases reads

/-- A read access repeats the poll of either of its phases that poll (41_register_access.md R122). -/
theorem readPhase_busy {finish : State → State} {s : State} (reads : opReads s.opr = true)
    (phase : opHasPhase s.opr s.ph = true) (polls : s.ph.polls = true) (busy : s.busyAnswer = true) :
    readPhase finish s = .next (s.polled true) := by
  rw [opHasPhase_of_reads reads] at phase
  rcases s.ph.polls_iff.1 polls with ph | ph | ph
  · simp [ph] at phase
  · simp [readPhase, ph, pollThen_busy busy]
  · simp [readPhase, ph, pollThen_busy busy]

/-- WRREG and SINIT poll in W_POLL only (R121, R141). -/
theorem ph_eq_wPoll_of_polls {op : Op} {p : Phase} (writes : op = .wrreg ∨ op = .sinit)
    (phase : opHasPhase op p = true) (polls : p.polls = true) : p = .wPoll := by
  rcases p.polls_iff.1 polls with rfl | rfl | rfl
  · rfl
  all_goals rcases writes with rfl | rfl <;> cases phase

end Sys2Proof.Machine

open Sys2Proof Sys2Proof.Machine

/-! ## The statements -/

/-- Settles O56: a reset empties the trace with BUS_READY 0; with no reset the block's next step keeps the invariant,
and so does waiting for the response. -/
theorem noBusUseBeforeInit : Obligations.NoBusUseBeforeInit := by
  unfold Obligations.NoBusUseBeforeInit
  intro s t inv init next
  cases rst : s.rstSample
  · obtain ⟨u, run, rfl⟩ := step_inv_of_low rst next
    have sampled : s.sampled.InitInv := init.kept rfl rfl
    exact awaitResponse_keeps sampled (runStep_keeps_initInv run inv.sampled.ready sampled)
      fun v e h => h.kept (by simp) (by simp)
  · have reset : step s = .next s.sampled.resetBlock := by simp [step, rst]
    cases reset.symm.trans next
    exact ⟨rfl, rfl⟩

/-- Settles O38: BINIT and DECODE lead to the old state with the registers they write written. -/
theorem binitAndDecodeFrame : Obligations.BinitAndDecodeFrame := by
  unfold Obligations.BinitAndDecodeFrame
  rintro i s t (rfl | rfl) next
  · obtain ⟨ready, c, tr, answers, n, ph, idle, rfl⟩ := exec_binit_writes next
    simpa using idle
  · obtain ⟨x, y, z, c, ph, idle, rfl⟩ := exec_decode_writes next
    simpa using idle

/-- Settles O41: the requests of an operation are transport messages and the settle delay. -/
theorem operationsNeverEmit : Obligations.OperationsNeverEmit := by
  unfold Obligations.OperationsNeverEmit
  exact fun i s t r next => (exec_step next).opRequest.trace_ne_emit r

/-- Settles O13: with no operation in progress BINIT begins, and the return that ends it writes STATUS only. -/
theorem binitInitialisesBus : Obligations.BinitInitialisesBus := by
  unfold Obligations.BinitInitialisesBus
  intro s free idle
  rw [exec_binit, whenFree_free free]
  refine ⟨fun unready answer => ?_, fun r unready answer failed => ?_, fun ready => ?_⟩
  · rw [unready, if_neg nofun, initBus_ok answer, State.ret_of_free, State.tInit, answer]
    · rfl
    · exact free
    · exact idle
  · subst answer
    rw [unready, if_neg nofun, initBus_failed failed, State.ret_of_free, initStatus_failed failed, State.tInit]
    · rw [← unready]
      rfl
    · exact free
    · exact idle
  · rw [if_pos ready]
    rfl

/-- Settles O16: a polling phase of the operation in progress takes one turn of the busy-poll, in a read access and in
WRREG and SINIT. -/
theorem busyPollRepeats : Obligations.BusyPollRepeats := by
  unfold Obligations.BusyPollRepeats
  intro i s op phase polls busy
  cases reads : opReads i.op
  · cases i with
    | wrreg =>
      rw [exec_wrreg, whenFree_busy (op := .wrreg) op nofun, wrregPhase, ph_eq_wPoll_of_polls (.inl rfl) phase polls]
      simp only [pollThen_busy busy]
    | sinit =>
      rw [exec_sinit, whenFree_busy (op := .sinit) op nofun, sinitPhase, ph_eq_wPoll_of_polls (.inr rfl) phase polls]
      simp only [pollThen_busy busy]
    | binit | decode => cases phase
    | rdregs | rdid | rdsmp => cases reads
  · obtain ⟨start, finish, meaning⟩ := exec_of_reads reads
    rw [meaning, whenFree_busy op i.op_ne_none]
    rw [← op] at reads phase
    exact readPhase_busy reads phase polls busy

end

section
/-! The register accesses, one step at a time (41_register_access.md): when a word is taken (R120), the phases of a
write and of a read (R121, R122) and their ends (R123, R124), and which instruction may write which register. -/

namespace Sys2Proof.Machine

/-! ## The operation in progress is resumed (R120) -/

/-- Every instruction begins only between operations and is resumed only by its own operation. -/
theorem exec_eq_whenFree (i : Instr) : ∃ start resume, ∀ s, exec i s = whenFree i.op start resume s := by
  cases i <;> exact ⟨_, _, fun _ => rfl⟩

/-- A read in progress takes the next step of its phases. -/
theorem exec_of_reading {i : Instr} {s : State} (reads : opReads i.op = true) (op : s.opr = i.op) :
    ∃ finish, exec i s = readPhase finish s := by
  obtain ⟨start, finish, meaning⟩ := exec_of_reads reads
  exact ⟨finish, by rw [meaning, whenFree_busy op i.op_ne_none]⟩

/-- With no operation in progress and the bus not ready, a bus operation is refused (R236). -/
theorem whenFree_admitBus_unready {s : State} (free : s.opr = .none) (unready : s.busReady = false) (op : Op)
    (start : State → State) (resume : State → Host.Outcome State Fault Refusal) :
    whenFree op (admitBus start) resume s = .next (s.refuse .notReady) := by
  simp [whenFree_free free, admitBus, unready]

theorem exec_wrreg_inProgress {s : State} (op : s.opr = .wrreg) (dev : DevAddr) (reg val : Byte) :
    exec (.wrreg dev reg val) s = wrregPhase s := by
  rw [exec_wrreg, whenFree_busy op nofun]

theorem exec_rdregs_inProgress {s : State} (op : s.opr = .rdregs) (dev : DevAddr) (reg len : Byte) :
    exec (.rdregs dev reg len) s = readPhase returnXres s := by
  rw [exec_rdregs, whenFree_busy op nofun]

/-- In W_SEND both operations that write send the write frame (R121, 42_sensor_driver.md R141). -/
theorem exec_wSend {i : Instr} {s : State} (writes : i.op = .wrreg ∨ i.op = .sinit) (op : s.opr = i.op)
    (ph : s.ph = .wSend) : exec i s = .next (sendWriteFrame s) := by
  cases i with
  | wrreg => rw [exec_wrreg_inProgress op, wrregPhase, ph]
  | sinit => rw [exec_sinit, whenFree_busy (op := .sinit) op nofun, sinitPhase, ph]
  | binit | rdregs | rdid | rdsmp | decode => rcases writes with h | h <;> cases h

/-! ## The phases (R121, R122) -/

/-- A poll that answers false is followed by the end of its phase (40_bus_transport.md R105). -/
theorem pollThen_idle {s : State} (idle : s.busyAnswer = false) (done : State → State) :
    pollThen done s = done (s.polled false) := by
  rw [pollThen, idle, tIsBusy_eq s idle]
  rfl

/-- The status of a transfer's answer (30_encoding.md R80). -/
theorem xferStatus_eq (x : XferResult) : xferStatus x = if x = .ok then .ok else .transfer := by
  cases x <;> rfl

/-- A receive that succeeds fills the buffer. -/
theorem receiveBytes_ok {s : State} (answer : s.recvAnswer = .ok) :
    receiveBytes s = ((s.tReceive s.len.toNat s.dev).fillRx s.len.toNat s.recvByte).toPhase .bPoll := by
  simp [receiveBytes, answer]

/-- A receive that fails leaves the buffer undefined. -/
theorem receiveBytes_failed {s : State} (answer : s.recvAnswer ≠ .ok) :
    receiveBytes s = ((s.tReceive s.len.toNat s.dev).undefineRx s.len.toNat).toPhase .bPoll := by
  simp [receiveBytes, answer]

/-- In B_RECV a read receives (R122). -/
theorem exec_bRecv {i : Instr} {s : State} (reads : opReads i.op = true) (op : s.opr = i.op) (ph : s.ph = .bRecv) :
    exec i s = .next (receiveBytes s) := by
  obtain ⟨finish, resumed⟩ := exec_of_reading reads op
  rw [resumed, readPhase, ph]

/-- The bytes above those filled keep their value (10_state.md R29). -/
theorem getElem_fillBytes_above (v : Vector Byte 255) (f : Nat → Byte) {n j : Nat} (h : j < 255) (above : n ≤ j) :
    (fillBytes v n f)[j] = v[j] := by
  rw [getElem_fillBytes, if_neg above.not_gt]

/-! ## Which instruction may write which register ("State written" of R121, R122, R106, R141, R144, R146, R147) -/

section Frame

variable {i : Instr} {s t : State}

/-- No step of an instruction takes a word, a reset sample or a response. -/
theorem ExecStep.keeps_inputs (h : ExecStep s i t) :
    t.cmds = s.cmds ∧ t.rst = s.rst ∧ t.transportResponds = s.transportResponds ∧
      t.delayCompletes = s.delayCompletes ∧ t.sinkAccepts = s.sinkAccepts := by
  cases h <;> exact ⟨rfl, rfl, rfl, rfl, rfl⟩

/-- Only BINIT initialises the bus. -/
theorem ExecStep.keeps_bus (h : ExecStep s i t) (other : i.op ≠ .binit) :
    t.busReady = s.busReady ∧ t.initAnswers = s.initAnswers := by
  cases h with
  | initOk | initFail => exact absurd rfl other
  | _ => exact ⟨rfl, rfl⟩

/-- Only SINIT writes INITERR and ISTEP. -/
theorem ExecStep.keeps_initErr (h : ExecStep s i t) (other : i.op ≠ .sinit) :
    t.initErr = s.initErr ∧ t.istep = s.istep := by
  cases h with
  | sinit | writeRecorded | settled => exact absurd rfl other
  | _ => exact ⟨rfl, rfl⟩

/-- Only RDID writes IDENT. -/
theorem ExecStep.keeps_ident (h : ExecStep s i t) (other : i.op ≠ .rdid) : t.ident = s.ident := by
  cases h with
  | rdidShort | rdidReturn | rdidFail => exact absurd rfl other
  | _ => rfl

/-- Only RDSMP and DECODE write the axes. -/
theorem ExecStep.keeps_axes (h : ExecStep s i t) (other : i.op ≠ .rdsmp) (nodecode : i.op ≠ .decode) :
    t.ax = s.ax ∧ t.ay = s.ay ∧ t.az = s.az := by
  cases h with
  | rdsmpShort | rdsmpReturn | rdsmpFail => exact absurd rfl other
  | decode => exact absurd rfl nodecode
  | _ => exact ⟨rfl, rfl, rfl⟩

/-- Only the operations that read write LEN and RXBUF and receive. -/
theorem ExecStep.keeps_received (h : ExecStep s i t) (other : opReads i.op = false) :
    t.len = s.len ∧ t.rxbuf = s.rxbuf ∧ t.recvAnswers = s.recvAnswers := by
  cases h with
  | rdregsZero | rdregs | rdid | rdsmp | rdregsShort | rdidShort | rdsmpShort => cases other
  | received _ reads | receiveFailed _ reads => cases other.symm.trans reads
  | _ => exact ⟨rfl, rfl, rfl⟩

/-- Of the registers of a write frame an operation that reads writes the first byte of TXBUF only. -/
theorem ExecStep.keeps_written (h : ExecStep s i t) (reads : opReads i.op = true) :
    t.val = s.val ∧ t.txbuf[1] = s.txbuf[1] := by
  cases h with
  | wrreg | sinit | settled => cases reads
  | writeSent _ writes => rcases writes with op | op <;> cases op ▸ reads
  | addressSent => simp [sendAddressFrame]
  | _ => exact ⟨rfl, rfl⟩

/-- The step that begins an operation writes no byte of RXBUF, and no step writes one at LEN or above. -/
theorem ExecStep.keeps_rxbuf_above (h : ExecStep s i t) {j : Nat} (hj : j < 255)
    (above : s.opr = .none ∨ s.len.toNat ≤ j) : t.rxbuf[j] = s.rxbuf[j] := by
  have fill (running : s.opr ≠ .none) (f : Nat → Byte) : (fillBytes s.rxbuf s.len.toNat f)[j] = s.rxbuf[j] :=
    getElem_fillBytes_above _ _ hj (above.resolve_left running)
  cases h with
  | received _ _ op | receiveFailed _ _ op => exact fill (op ▸ i.op_ne_none) _
  | rdregsShort _ _ _ op | rdidShort op | rdsmpShort op => exact fill (by simp [op]) _
  | _ => rfl

end Frame

end Sys2Proof.Machine

open Sys2Proof Sys2Proof.Machine

/-! ## The statements -/

/-- Settles O6: between operations the command port's turn issues the word, which decodes. -/
theorem stepTakesCommandWord : Obligations.StepTakesCommandWord := by
  unfold Obligations.StepTakesCommandWord
  intro s w ws i low free issuer word decoded
  have turn : runStep s.sampled = portStep s.sampled := by
    simp [runStep, State.inProgress, free, issuer]
  rw [step_of_low low, turn]
  simp only [portStep, State.sampled, word, issueWord, decoded]

/-- Settles O11: an instruction is neither begun nor resumed. -/
theorem oneOperationAtATime : Obligations.OneOperationAtATime := by
  unfold Obligations.OneOperationAtATime
  intro i s busy other
  obtain ⟨start, resume, meaning⟩ := exec_eq_whenFree i
  rw [meaning, whenFree, if_neg busy, if_neg other]

/-- Settles O14: the write frame is sent from a TXBUF whose two bytes are both written. -/
theorem writeFrameSent : Obligations.WriteFrameSent := by
  unfold Obligations.WriteFrameSent
  intro i s writes op ph
  rw [exec_wSend writes op ph, ← txbuf_set_both s.txbuf]
  rfl

/-- Settles O15: the address frame is sent from a TXBUF whose first byte is written. -/
theorem addressFrameSent : Obligations.AddressFrameSent := by
  unfold Obligations.AddressFrameSent
  intro i s reads op ph
  obtain ⟨finish, resumed⟩ := exec_of_reading reads op
  rw [resumed, readPhase, ph, ← txbuf_set_first s.txbuf]
  rfl

/-- Settles O17: the poll of W_POLL is followed by the return of XRES. -/
theorem wrregReturns : Obligations.WrregReturns := by
  unfold Obligations.WrregReturns
  intro s dev reg val op ph idle
  rw [exec_wrreg_inProgress op, wrregPhase, ph, ← xferStatus_eq]
  exact congrArg Host.Outcome.next (pollThen_idle idle returnXres)

/-- Settles O18: the poll of A_POLL is followed by the receive. -/
theorem addressPhaseAccepted : Obligations.AddressPhaseAccepted := by
  unfold Obligations.AddressPhaseAccepted
  intro i s reads op ph idle accepted
  obtain ⟨finish, resumed⟩ := exec_of_reading reads op
  rw [resumed, readPhase, ph]
  exact congrArg Host.Outcome.next ((pollThen_idle idle _).trans (if_pos accepted))

/-- Settles O19: the receive's two answers, each with what it makes of RXBUF. -/
theorem bytesReceived : Obligations.BytesReceived := by
  unfold Obligations.BytesReceived
  intro i s reads op ph
  refine ⟨_, exec_bRecv reads op ph, ?_⟩
  by_cases answer : s.recvAnswer = .ok
  · rw [receiveBytes_ok answer]
    exact ⟨rfl, rfl, rfl, rfl, rfl, fun j hj _ => getElem_fillBytes _ _ _ j hj⟩
  · rw [receiveBytes_failed answer]
    refine ⟨rfl, rfl, rfl, rfl, rfl, fun j hj known => ?_⟩
    have above : s.len.toNat ≤ j := known.resolve_left answer
    rw [if_neg above.not_gt]
    exact getElem_fillBytes_above _ _ hj above

/-- Settles O20: the poll of B_POLL is followed by the return of XRES; that of A_POLL, after a failed send, by the
undefined buffer and the return. -/
theorem rdregsReturns : Obligations.RdregsReturns := by
  unfold Obligations.RdregsReturns
  intro s dev reg len op idle
  rw [exec_rdregs_inProgress op, readPhase]
  refine ⟨fun ph => ?_, fun ph failed => ?_⟩
  · rw [ph, ← xferStatus_eq]
    exact congrArg Host.Outcome.next (pollThen_idle idle returnXres)
  · refine ⟨fillBytes s.rxbuf s.len.toNat (Config.undefined 8 (s.polled false).draws),
      fun j hj above => getElem_fillBytes_above _ _ hj above, ?_⟩
    rw [ph, ← xferStatus_error failed]
    exact congrArg Host.Outcome.next ((pollThen_idle idle _).trans (if_neg failed))

/-- Settles O21: the admitted read of length 0 returns at once, and without the bus it is refused. -/
theorem zeroLengthRead : Obligations.ZeroLengthRead := by
  unfold Obligations.ZeroLengthRead
  intro s dev reg free idle
  refine ⟨fun ready => ?_, fun unready => ?_⟩
  · rw [exec_rdregs, whenFree_admitBus_ready free ready, beginRdregs, if_pos rfl]
    exact congrArg Host.Outcome.next (State.ret_of_free (s := s.latchRead dev reg 0) free idle .ok)
  · rw [exec_rdregs, whenFree_admitBus_unready free unready]
    rfl

/-- Settles O35: WRREG neither reads nor is it BINIT, SINIT or DECODE, and these alone write the other registers. -/
theorem wrregFrame : Obligations.WrregFrame := by
  unfold Obligations.WrregFrame
  intro s t dev reg val next
  have h := exec_step next
  obtain ⟨lcs, lcp, due, issuer⟩ := h.keeps_controller
  obtain ⟨cmds, rst, inputs⟩ := h.keeps_inputs
  obtain ⟨ready, inits⟩ := h.keeps_bus nofun
  obtain ⟨initErr, istep⟩ := h.keeps_initErr nofun
  obtain ⟨len, rxbuf, recvs⟩ := h.keeps_received rfl
  obtain ⟨ax, ay, az⟩ := h.keeps_axes nofun nofun
  exact ⟨lcs, lcp, ready, initErr, istep, len, fun _ _ => by rw [rxbuf], h.keeps_ident nofun, ax, ay, az, due, issuer,
    cmds, rst, inits, recvs, inputs⟩

/-- Settles O36: a read is none of BINIT, SINIT and DECODE, and of the registers of a write it writes TXBUF[0] only. -/
theorem readFrame : Obligations.ReadFrame := by
  unfold Obligations.ReadFrame
  intro i s t reads next
  have h := exec_step next
  have other {op : Op} (writes : opReads op = false) : i.op ≠ op := by
    rintro rfl
    cases writes.symm.trans reads
  obtain ⟨lcs, lcp, due, issuer⟩ := h.keeps_controller
  obtain ⟨cmds, rst, inputs⟩ := h.keeps_inputs
  obtain ⟨ready, inits⟩ := h.keeps_bus (other rfl)
  obtain ⟨initErr, istep⟩ := h.keeps_initErr (other rfl)
  obtain ⟨val, tx1⟩ := h.keeps_written reads
  exact ⟨lcs, lcp, ready, initErr, istep, val, tx1, fun _ hj above => h.keeps_rxbuf_above hj above, h.keeps_ident,
    fun notSample => h.keeps_axes notSample (other rfl), due, issuer, cmds, rst, inits, inputs⟩

end

section
/-! Whole register accesses (41_register_access.md): a request that is responded to, the polls of a busy bus, and the
runs of WRREG and RDREGS from the command word to the return. -/

namespace Sys2Proof.Machine

/-! ## Runs -/

/-- A run of as many steps to the same state, both written in another way. -/
theorem runs_of_eq {n n' : Nat} {s t t' : State} (h : Runs n s t) (steps : n = n') (state : t = t') :
    Runs n' s t' := by
  subst steps state
  exact h

/-- The responses to more requests, the later ones apart (40_bus_transport.md R109). -/
theorem granted_add (n m : Nat) (ts : List Bool) : granted (n + m) ++ ts = granted n ++ (granted m ++ ts) := by
  rw [granted, List.replicate_add, List.append_assoc]
  rfl

/-- The polls that answer true, and the one that answers false apart (R105). -/
theorem idleAfter_append (k : Nat) (bs : List Bool) : idleAfter k ++ bs = List.replicate k true ++ false :: bs := by
  simp [idleAfter]

/-! ## One step -/

/-- The instruction in progress is that of OPR (10_state.md R23). -/
theorem State.op_of_inProgress {s : State} {i : Instr} (running : s.inProgress = some i) : s.opr = i.op := by
  unfold State.inProgress at running
  split at running <;> cases running <;> assumption

/-- With the reset input low, the operation in progress takes a step whose request to the transport is responded to. -/
theorem step_request {s t : State} {i : Instr} {e : Event} {ts : List Bool} (low : s.rst = [])
    (running : s.inProgress = some i) (next : exec i s = .next t) (event : t.trace = e :: s.trace)
    (transport : e.usesBus = true) (responds : s.transportResponds = true :: ts) :
    step s = .next t.askedTransport := by
  have run : runStep s = .next t := by simpa only [runStep, running] using next
  have ready : s.transportReady = true := by simp [State.transportReady, responds]
  rw [step_of_low (by simp [State.rstSample, low]), State.sampled_of_low low, run]
  cases e with
  | tSend | tRecv | tBusy => exact congrArg Host.Outcome.next (awaitResponse_answered event ready)
  | tInit | delay | emit => cases transport

/-- The word of an instruction that begins with no event is taken in one step (41_register_access.md R120). -/
theorem step_begins {s t : State} {i : Instr} {ws : List Word} (port : s.AtPort (encode i) ws)
    (next : exec i { s with cmds := ws } = .next t) (silent : t.trace = s.trace) : step s = .next t := by
  rw [step_atPort port, issueWord, decode_encode]
  simp only [next]
  exact onceAnswered_silent silent

/-! ## The polls of a busy bus (R105, R208) -/

/-- The state after `k` polls that answer true, each responded to, when `bs` and `ts` are the answers and the responses
that are left. -/
def State.afterBusyPolls (s : State) (k : Nat) (bs ts : List Bool) : State :=
  { s with
    trace := List.replicate k (.tBusy true) ++ s.trace
    busyAnswers := bs, transportResponds := ts, draws := s.draws + 2 * k }

/-- A polling phase is one of an operation in progress (R23). -/
theorem exists_inProgress_of_polls {s : State} (phase : opHasPhase s.opr s.ph = true) (polls : s.ph.polls = true) :
    ∃ i, s.inProgress = some i := by
  refine Option.ne_none_iff_exists'.1 fun none => ?_
  rw [s.inProgress_eq_none_iff.1 none, opHasPhase, beq_iff_eq] at phase
  rw [phase] at polls
  cases polls

/-- In a polling phase every poll that answers true is one step. -/
theorem runs_busyPolls {s : State} {k : Nat} {bs ts : List Bool} (low : s.rst = [])
    (phase : opHasPhase s.opr s.ph = true) (polls : s.ph.polls = true)
    (responds : s.transportResponds = granted k ++ ts) (busy : s.busyAnswers = List.replicate k true ++ bs) :
    Runs k s (s.afterBusyPolls k bs ts) := by
  induction k generalizing s with
  | zero =>
    refine runs_of_eq (runs_zero s) rfl ?_
    cases s; cases responds; cases busy; rfl
  | succ k ih =>
    obtain ⟨i, running⟩ := exists_inProgress_of_polls phase polls
    have op := State.op_of_inProgress running
    have answer : s.busyAnswer = true := by rw [State.busyAnswer, busy]; rfl
    have poll : step s = .next (s.polled true).askedTransport :=
      step_request low running (busyPollRepeats i s op (op ▸ phase) polls answer) rfl rfl responds
    have rest := ih (s := (s.polled true).askedTransport) low phase polls (congrArg List.tail responds)
      (congrArg List.tail busy)
    refine runs_of_eq (runs_cons poll rest) rfl ?_
    simp [State.afterBusyPolls, State.polled, State.askedTransport, List.replicate_succ']
    omega

/-! ## A transfer and its polls (R121, R122) -/

/-- The state of a transfer whose request was responded to, after `k` polls that answered true, when the next poll is
about to answer false. -/
def State.atLastPoll (s : State) (k : Nat) (bs ts : List Bool) : State :=
  s.askedTransport.afterBusyPolls k (false :: bs) (true :: ts)

/-- A transfer of the operation in progress, the polls after it that answer true, and the one that answers false with
what follows it. -/
theorem runs_transfer {s t u : State} {i : Instr} {e : Event} {k : Nat} {bs ts : List Bool}
    (transfer : exec i s = .next t) (low : s.rst = []) (running : s.inProgress = some i)
    (event : t.trace = e :: s.trace) (transport : e.usesBus = true) (continues : t.inProgress = some i)
    (phase : opHasPhase i.op t.ph = true) (polls : t.ph.polls = true)
    (responds : s.transportResponds = granted (k + 2) ++ ts)
    (idle : t.busyAnswers = idleAfter k ++ bs) (last : exec i (t.atLastPoll k bs ts) = .next u)
    (poll : u.trace = .tBusy false :: (t.atLastPoll k bs ts).trace) : Runs (k + 2) s u.askedTransport := by
  obtain ⟨_, rst, responses, _⟩ := (exec_step transfer).keeps_inputs
  rw [granted_add (k + 1) 1] at responds
  rw [idleAfter_append] at idle
  have left : t.askedTransport.transportResponds = granted k ++ true :: ts := by
    rw [State.askedTransport_transportResponds, responses, responds]
    rfl
  have asked : step s = .next t.askedTransport := step_request low running transfer event transport responds
  have busy : Runs k t.askedTransport (t.atLastPoll k bs ts) :=
    runs_busyPolls (rst.trans low) (State.op_of_inProgress continues ▸ phase) polls left idle
  have done : step (t.atLastPoll k bs ts) = .next u.askedTransport :=
    step_request (rst.trans low) continues last poll rfl rfl
  exact runs_cons asked (runs_add busy (runs_one done))

/-! ## The two transfers of a read (R122) -/

/-- The state of a read in A_POLL, after an address frame that was answered `r`, when `rs` are the answers that are
left. -/
def State.addressSent (s : State) (r : XferResult) (rs : List XferResult) : State :=
  { s with
    txbuf := #v[s.reg, s.txbuf[1]], xres := r, ph := .aPoll, trace := .tSend s.dev [s.reg] true r :: s.trace
    sendAnswers := rs, draws := s.draws + 1 }

/-- The state of a read in B_RECV, after an accepted address frame with `k` polls that answered true and one that
answered false, when `rs`, `bs` and `ts` are the answers and the responses that are left. -/
def State.addressed (s : State) (k : Nat) (rs : List XferResult) (bs ts : List Bool) : State :=
  { s with
    txbuf := #v[s.reg, s.txbuf[1]], xres := .ok, ph := .bRecv
    trace := pollEvents k ++ .tSend s.dev [s.reg] true .ok :: s.trace
    sendAnswers := rs, busyAnswers := bs, transportResponds := ts, draws := s.draws + 2 * k + 4 }

/-- The state of a read in B_POLL, after a receive that delivered `data` and left `rx` in RXBUF, when `ds` are the
answers that are left. -/
def State.received (s : State) (rx : Vector Byte 255) (data : List Byte) (ds : List RecvAnswer) : State :=
  { s with
    xres := .ok, ph := .bPoll, rxbuf := rx, trace := .tRecv s.dev s.len.toNat .ok data :: s.trace
    recvAnswers := ds, draws := s.draws + 1 }

/-- In A_SEND a script answers the address frame (R102). -/
theorem exec_aSend_scripted {i : Instr} {s : State} {r : XferResult} {rs : List XferResult}
    (reads : opReads i.op = true) (op : s.opr = i.op) (ph : s.ph = .aSend) (script : s.sendAnswers = r :: rs) :
    exec i s = .next (s.addressSent r rs) := by
  have answer : s.sendAnswer = r := by rw [State.sendAnswer, script]
  rw [addressFrameSent i s reads op ph, answer, script]
  rfl

/-- An address frame that is accepted, and its polls. -/
theorem runs_addressFrame {s : State} {i : Instr} {k : Nat} {rs : List XferResult} {bs ts : List Bool}
    (low : s.rst = []) (running : s.inProgress = some i) (reads : opReads i.op = true) (ph : s.ph = .aSend)
    (responds : s.transportResponds = granted (k + 2) ++ ts) (sends : s.sendAnswers = .ok :: rs)
    (idle : s.busyAnswers = idleAfter k ++ bs) : Runs (k + 2) s (s.addressed k rs bs ts) := by
  have op := State.op_of_inProgress running
  have phase : opHasPhase i.op .aPoll = true := by rw [opHasPhase_of_reads reads]; rfl
  refine runs_of_eq (runs_transfer (exec_aSend_scripted reads op ph sends) low running rfl rfl running phase rfl
    responds idle (addressPhaseAccepted i _ reads op rfl rfl rfl) rfl) rfl ?_
  simp [State.addressed, State.addressSent, State.atLastPoll, State.afterBusyPolls, State.askedTransport, State.polled,
    pollEvents]
  omega

/-- In B_RECV a script of as many bytes as are asked for fills the buffer with them (R103). -/
theorem exec_bRecv_scripted {i : Instr} {s : State} {data : List Byte} {ds : List RecvAnswer}
    (reads : opReads i.op = true) (op : s.opr = i.op) (ph : s.ph = .bRecv) (script : s.recvAnswers = .ok data :: ds)
    (length : data.length = s.len.toNat) :
    ∃ rx : Vector Byte 255, (∀ (j : Nat) (h : j < 255), rx[j] = data.getD j s.rxbuf[j]) ∧
      exec i s = .next (s.received rx data ds) := by
  have answer : s.recvAnswer = .ok := by rw [State.recvAnswer, script]
  have byte (j : Nat) : s.recvByte j = data.getD j (Config.recvByte s.draws j) := by rw [State.recvByte, script]
  have all : s.recvData s.len.toNat = data := by
    refine List.ext_getElem (by simp [State.recvData, length]) fun j _ hj => ?_
    simp [State.recvData, byte, hj]
  refine ⟨fillBytes s.rxbuf s.len.toNat s.recvByte, fun j hj => ?_, ?_⟩
  · rw [getElem_fillBytes, byte, ← length]
    split
    · next below => simp [below]
    · next above => simp [above]
  · rw [exec_bRecv reads op ph, receiveBytes_ok answer]
    simp only [State.tReceive, answer, if_pos, all, script]
    rfl

/-- A read in progress whose two transfers succeed, with what follows its last poll. -/
theorem runs_read {s : State} {i : Instr} {k m : Nat} {data : List Byte} {rs : List XferResult} {ds : List RecvAnswer}
    {bs ts : List Bool} (low : s.rst = []) (running : s.inProgress = some i) (reads : opReads i.op = true)
    (ph : s.ph = .aSend) (responds : s.transportResponds = granted (k + m + 4) ++ ts)
    (sends : s.sendAnswers = .ok :: rs) (script : s.recvAnswers = .ok data :: ds) (length : data.length = s.len.toNat)
    (idle : s.busyAnswers = idleAfter k ++ (idleAfter m ++ bs)) :
    ∃ (rx : Vector Byte 255) (last : State), (∀ (j : Nat) (h : j < 255), rx[j] = data.getD j s.rxbuf[j]) ∧
      last = ((s.addressed k rs (idleAfter m ++ bs) (granted (m + 2) ++ ts)).received rx data ds).atLastPoll m bs ts ∧
      ∀ u, exec i last = .next u → u.trace = .tBusy false :: last.trace →
        Runs (k + m + 4) s u.askedTransport := by
  have op := State.op_of_inProgress running
  have phase : opHasPhase i.op .bPoll = true := by rw [opHasPhase_of_reads reads]; rfl
  rw [show k + m + 4 = k + 2 + (m + 2) by omega, granted_add] at responds
  have address := runs_addressFrame low running reads ph responds sends idle
  obtain ⟨rx, bytes, receive⟩ := exec_bRecv_scripted
    (s := s.addressed k rs (idleAfter m ++ bs) (granted (m + 2) ++ ts)) reads op rfl script length
  refine ⟨rx, _, bytes, rfl, fun u last poll => ?_⟩
  exact runs_of_eq (runs_add address (runs_transfer receive low running rfl rfl running phase rfl rfl rfl last poll))
    (by omega) rfl

/-! ## RDREGS from the command port -/

/-- The state in which an RDREGS from the command port has begun, when `ws` are the words that are left (R120, R122). -/
def State.rdregsBegun (s : State) (dev : DevAddr) (reg len : Byte) (ws : List Word) : State :=
  { s with cmds := ws, dev := dev, reg := reg, len := len, opr := .rdregs, ph := .aSend }

/-- With the bus ready the word of an RDREGS of some bytes begins it in one step. -/
theorem step_rdregs_begins {s : State} {dev : DevAddr} {reg len : Byte} {ws : List Word}
    (port : s.AtPort (encode (.rdregs dev reg len)) ws) (ready : s.busReady = true) (nonzero : len ≠ 0) :
    step s = .next (s.rdregsBegun dev reg len ws) := by
  obtain ⟨_, rdregs, _⟩ := busOperationsBegin { s with cmds := ws } port.free ready
  exact step_begins port (rdregs dev reg len nonzero) rfl

end Sys2Proof.Machine

open Sys2Proof Sys2Proof.Machine

/-! ## The statements -/

/-- Settles O26: the word is taken, the frame is sent and polled, and the poll that answers false returns. -/
theorem wrregRuns : Obligations.WrregRuns := by
  unfold Obligations.WrregRuns
  intro s dev reg val ws k r rs bs ts port ready responds sends idle
  obtain ⟨wrreg, _⟩ := busOperationsBegin { s with cmds := ws } port.free ready
  have begins := step_begins port (wrreg dev reg val) rfl
  have send := writeFrameSent (.wrreg dev reg val)
    { s with cmds := ws, dev := dev, reg := reg, val := val, opr := .wrreg, ph := .wSend } (.inl rfl) rfl rfl
  have returns := runs_transfer send port.low rfl rfl rfl rfl rfl rfl responds idle
    (wrregReturns _ dev reg val rfl rfl rfl) rfl
  refine runs_of_eq (runs_cons begins returns) rfl ?_
  simp [State.atLastPoll, State.afterBusyPolls, State.askedTransport, State.polled, State.sendAnswer, pollEvents, sends,
    port.free]
  omega

/-- Settles O27: the word is taken, both transfers succeed, and the poll that answers false returns. -/
theorem rdregsRuns : Obligations.RdregsRuns := by
  unfold Obligations.RdregsRuns
  intro s dev reg len ws k m data rs ds bs ts port ready nonzero responds sends script length idle
  have begins := step_rdregs_begins port ready nonzero
  obtain ⟨rx, last, bytes, rfl, ends⟩ := runs_read (s := s.rdregsBegun dev reg len ws) (i := .rdregs dev reg len)
    port.low rfl rfl rfl responds sends script length idle
  have returns := ends _ ((rdregsReturns _ dev reg len rfl rfl).1 rfl) rfl
  refine ⟨rx, bytes, runs_of_eq (runs_cons begins returns) rfl ?_⟩
  simp [State.rdregsBegun, State.addressed, State.received, State.atLastPoll, State.afterBusyPolls,
    State.askedTransport, State.polled, pollEvents, port.free]
  omega

/-- Settles O28: the word is taken, the address frame is sent, and the poll that answers false returns its error. -/
theorem shortCircuitRuns : Obligations.ShortCircuitRuns := by
  unfold Obligations.ShortCircuitRuns
  intro s dev reg len ws k rs bs ts port ready nonzero responds sends idle
  have begins := step_rdregs_begins port ready nonzero
  have send := exec_aSend_scripted (s := s.rdregsBegun dev reg len ws) (i := .rdregs dev reg len) rfl rfl rfl sends
  obtain ⟨_, short⟩ := rdregsReturns
    (((s.rdregsBegun dev reg len ws).addressSent .transferError rs).atLastPoll k bs ts) dev reg len rfl rfl
  obtain ⟨rx, above, returned⟩ := short rfl nofun
  have ends := runs_transfer send port.low rfl rfl rfl rfl rfl rfl responds idle returned rfl
  refine ⟨rx, above, runs_of_eq (runs_cons begins ends) rfl ?_⟩
  simp [State.rdregsBegun, State.addressSent, State.atLastPoll, State.afterBusyPolls, State.askedTransport,
    State.polled, pollEvents, port.free]
  omega

end

section
/-! Every write settles in the assembled block (42_sensor_driver.md R143, 70_reset_and_hazards.md R235). -/

namespace Sys2Proof.Machine

/-! ## The settle delay that is due -/

/-- A settle delay is due: SINIT has sent a write frame and has not yet waited (R141). -/
def State.settleDue (s : State) : Prop := s.opr = .sinit ∧ (s.ph = .wPoll ∨ s.ph = .sDelay)

/-- The event neither makes a settle delay due nor is one: it is no write frame and no `Delay(10)`. -/
def Event.keepsSettle : Event → Bool
  | .tInit _ _ => true
  | .tSend _ _ nostop _ => nostop
  | .tRecv _ _ _ _ => true
  | .tBusy _ => true
  | .delay ms => ms != 10
  | .emit _ => true

theorem settlePending_cons {e : Event} (keeps : e.keepsSettle = true) (tr : List Event) :
    settlePending (e :: tr) = settlePending tr := by
  cases e with
  | tSend _ _ nostop => cases keeps; rfl
  | delay ms =>
    have notSettle : (ms != 10) = true := keeps
    rw [settlePending, notSettle, Bool.true_and]
  | tInit | tRecv | tBusy | emit => rfl

/-- No operation but SINIT owes a settle delay. -/
theorem State.not_settleDue_of_opr {s : State} (other : s.opr ≠ .sinit) : ¬ s.settleDue := fun due => other due.1

/-! ## The invariant, event by event -/

/-- The trace and the delay that is due are all that the invariant speaks of. -/
theorem State.SettleInv.kept {s t : State} (inv : s.SettleInv) (trace : t.trace = s.trace)
    (due : t.settleDue ↔ s.settleDue) : t.SettleInv :=
  ⟨by rw [trace]; exact inv.trace, by rw [trace]; exact inv.pending.trans due.symm⟩

/-- An event keeps the trace settled, unless it is a transfer and a delay is due. -/
theorem State.SettleInv.settled_cons {s : State} (inv : s.SettleInv) {e : Event}
    (early : e.isTransfer = true → ¬ s.settleDue) : settled (e :: s.trace) = true := by
  have quiet : e.isTransfer = true → settlePending s.trace = false := fun transfer =>
    Bool.eq_false_iff.2 fun pending => early transfer (inv.pending.1 pending)
  cases transfer : e.isTransfer
  · simp [settled, transfer, inv.trace]
  · simp [settled, transfer, quiet transfer, inv.trace]

/-- An event that is neither a write frame nor the settle delay leaves the delay that is due as it is. -/
theorem State.SettleInv.logged {s t : State} {e : Event} (inv : s.SettleInv) (trace : t.trace = e :: s.trace)
    (keeps : e.keepsSettle = true) (early : e.isTransfer = true → ¬ s.settleDue)
    (due : t.settleDue ↔ s.settleDue) : t.SettleInv :=
  ⟨by rw [trace]; exact inv.settled_cons early,
    by rw [trace, settlePending_cons keeps]; exact inv.pending.trans due.symm⟩

/-- A write frame is sent with no delay due, and makes one due. -/
theorem State.SettleInv.written {s t : State} {dev : DevAddr} {bytes : List Byte} {r : XferResult}
    (inv : s.SettleInv) (trace : t.trace = .tSend dev bytes false r :: s.trace) (early : ¬ s.settleDue)
    (due : t.settleDue) : t.SettleInv :=
  ⟨by rw [trace]; exact inv.settled_cons fun _ => early, by rw [trace]; exact iff_of_true rfl due⟩

/-- After the settle delay none is due. -/
theorem State.SettleInv.waited {s t : State} (inv : s.SettleInv) (trace : t.trace = .delay Config.settleMs :: s.trace)
    (due : ¬ t.settleDue) : t.SettleInv :=
  ⟨by rw [trace]; exact inv.settled_cons nofun, by rw [trace]; exact iff_of_false nofun due⟩

/-! ## A step keeps the invariant -/

/-- Of all instructions only WRREG leaves a write unsettled (R143). -/
theorem ExecStep.keeps_settleInv {i : Instr} {s t : State} (h : ExecStep s i t) (notWrreg : i.op ≠ .wrreg)
    (inv : s.SettleInv) : t.SettleInv := by
  have unowed {u : State} (other : u.opr ≠ .sinit) := State.not_settleDue_of_opr other
  have readsOther {op : Op} (reads : opReads op = true) : op ≠ .sinit := by
    rintro rfl
    cases reads
  cases h with
  | wrreg | wrregReturn => exact absurd rfl notWrreg
  | notTaken => exact inv
  | notReady | initAgain => exact inv.kept rfl Iff.rfl
  | decode free | rdregsZero _ _ free | rdregs _ _ _ free | rdid free | rdsmp free =>
    exact inv.kept rfl (iff_of_false (unowed nofun) (unowed (by simp [free])))
  | sinit free => exact inv.kept rfl (iff_of_false (by simp [State.settleDue]) (unowed (by simp [free])))
  | initOk free | initFail free =>
    exact inv.logged rfl rfl nofun (iff_of_false (unowed nofun) (unowed (by simp [free])))
  | writeSent _ writes op ph =>
    have sinit := op.trans (writes.resolve_left notWrreg)
    exact inv.written rfl (by simp [State.settleDue, ph]) ⟨sinit, .inl rfl⟩
  | addressSent _ reads op | received _ reads op | receiveFailed _ reads op =>
    have other : s.opr ≠ .sinit := op ▸ readsOther reads
    exact inv.logged rfl rfl (fun _ => unowed other) (iff_of_false (unowed other) (unowed other))
  | addressAccepted _ reads op =>
    have other : s.opr ≠ .sinit := op ▸ readsOther reads
    exact inv.logged (e := .tBusy s.busyAnswer) rfl rfl nofun (iff_of_false (unowed other) (unowed other))
  | busy => exact inv.logged (e := .tBusy s.busyAnswer) rfl rfl nofun Iff.rfl
  | writeRecorded op ph =>
    exact inv.logged (e := .tBusy s.busyAnswer) rfl rfl nofun (iff_of_true ⟨op, .inr rfl⟩ ⟨op, .inl ph⟩)
  | settled => exact inv.waited rfl (by simp [State.settleDue])
  | sinitReturn => exact inv.waited rfl (unowed nofun)
  | rdregsShort _ _ _ op | rdidShort op | rdsmpShort op | rdregsReturn _ _ _ op | rdidReturn op | rdidFail op
  | rdsmpReturn op | rdsmpFail op =>
    exact inv.logged (e := .tBusy s.busyAnswer) rfl rfl nofun (iff_of_false (unowed nofun) (unowed (by simp [op])))

/-- The Loop Controller issues no WRREG, and beside the operations it issues it only reports and waits for the next
sample (43_sampling_loop.md R170, R175). -/
theorem LcMove.keeps_settleInv {s t : State} (h : LcMove s t) (inv : s.SettleInv) : t.SettleInv := by
  cases h with
  | binit _ _ h | rdid _ _ h | sinit _ _ h | rdsmp _ _ h =>
    exact (exec_step h).keeps_settleInv nofun (inv.kept rfl Iff.rfl)
  | ready | checked | writesOk | active | sample | again | halted => exact inv.kept rfl Iff.rfl
  | start | halt | mismatch | identity | wrongIdentity | identityFailed | writesFailed | done | sampleOk
  | sampleFailed | delay => exact inv.logged rfl rfl nofun Iff.rfl

/-- In the assembled block no WRREG is in progress (43_sampling_loop.md R180). -/
theorem State.LcInv.opr_ne_wrreg {s : State} (lc : s.LcInv) : s.opr ≠ .wrreg := by
  intro op
  obtain ⟨_, _, issued⟩ := lc.op (by simp [op])
  simp [op] at issued

/-- The next step of the assembled block keeps the invariant. -/
theorem runStep_keeps_settleInv {s t : State} (h : runStep s = .next t) (issuer : s.issuer = .loopController)
    (notWrreg : s.opr ≠ .wrreg) (inv : s.SettleInv) : t.SettleInv := by
  rcases runStep_inv h with ⟨i, running, h⟩ | ⟨_, _, h⟩ | ⟨_, port, _⟩
  · exact h.keeps_settleInv (State.op_of_inProgress running ▸ notWrreg) inv
  · exact h.keeps_settleInv inv
  · cases issuer.symm.trans port

end Sys2Proof.Machine

open Sys2Proof Sys2Proof.Machine

/-! ## The statements -/

/-- Settles O57: a reset empties the trace with no operation in progress; with no reset the next step of the assembled
block keeps the invariant, and so does waiting for the response. -/
theorem writesSettleUnderController : Obligations.WritesSettleUnderController := by
  unfold Obligations.WritesSettleUnderController
  intro s t _ lc inv next
  cases rst : s.rstSample
  · obtain ⟨u, run, rfl⟩ := step_inv_of_low rst next
    have sampled : s.sampled.SettleInv := inv.kept rfl Iff.rfl
    exact awaitResponse_keeps sampled (runStep_keeps_settleInv run lc.lc lc.opr_ne_wrreg sampled)
      fun v e h => h.kept (by simp) (by simp [State.settleDue])
  · have reset : step s = .next s.sampled.resetBlock := by simp [step, rst]
    cases reset.symm.trans next
    exact ⟨rfl, iff_of_false nofun (State.not_settleDue_of_opr nofun)⟩

end

section
/-! The sensor driver (42_sensor_driver.md): the arithmetic of the decoder (R147, R148), the steps of RDID, RDSMP, SINIT
and DECODE (R141, R144, R146), and the runs of RDID, RDSMP and SINIT from the command word to the return. -/

namespace Sys2Proof.Machine

/-! ## The decoder's arithmetic (R148) -/

/-- An axis is the number of its high byte, read as two's complement, times 256 and its low byte. -/
theorem toInt_decodeAxis (low high : Byte) : (decodeAxis low high).toInt = 256 * high.toInt + low.toNat := by
  rw [decodeAxis_eq_append]
  exact BitVec.toInt_append (x := high) (y := low)

/-- The two bytes of an axis. -/
theorem decodeAxis_bytes (a : Axis) : decodeAxis (a.extractLsb' 0 8) (a.extractLsb' 8 8) = a := by
  rw [decodeAxis_eq_append]
  exact BitVec.extractLsb'_append_extractLsb'

/-- The bytes can be read back from the axis. -/
theorem decodeAxis_inj {l h l' h' : Byte} (same : decodeAxis l h = decodeAxis l' h') : l = l' ∧ h = h' := by
  have joined := congrArg BitVec.toNat same
  simp only [decodeAxis_eq_append, toNat_append_add] at joined
  have := l.isLt
  have := l'.isLt
  exact ⟨BitVec.eq_of_toNat_eq (by omega), BitVec.eq_of_toNat_eq (by omega)⟩

/-- The three axes are joined from the byte pairs of `RXBUF[0..5]` (R147). -/
theorem State.latchSample_eq (s : State) :
    s.latchSample = { s with
      ax := s.rxbuf[1] ++ s.rxbuf[0], ay := s.rxbuf[3] ++ s.rxbuf[2], az := s.rxbuf[5] ++ s.rxbuf[4] } := by
  simp only [State.latchSample, decodeAxis_eq_append]

/-- With no operation in progress DECODE decodes and returns. -/
theorem exec_decode_of_free {s : State} (free : s.opr = .none) : exec .decode s = .next (s.latchSample.ret .ok) := by
  rw [exec_decode, whenFree_free free]

/-! ## The ends of RDID and RDSMP (R144, R146) -/

theorem exec_rdid_inProgress {s : State} (op : s.opr = .rdid) : exec .rdid s = readPhase finishRdid s := by
  rw [exec_rdid, whenFree_busy op nofun]

theorem exec_rdsmp_inProgress {s : State} (op : s.opr = .rdsmp) : exec .rdsmp s = readPhase finishRdsmp s := by
  rw [exec_rdsmp, whenFree_busy op nofun]

/-- In B_POLL a read whose poll answers false ends (41_register_access.md R122). -/
theorem readPhase_bPoll_idle {finish : State → State} {s : State} (ph : s.ph = .bPoll) (idle : s.busyAnswer = false) :
    readPhase finish s = .next (finish (s.polled false)) := by
  simp only [readPhase, ph, pollThen_idle idle]

/-- In A_POLL a read whose address frame failed ends with the buffer undefined when the poll answers false (R124). -/
theorem readPhase_aPoll_failed {finish : State → State} {s : State} (ph : s.ph = .aPoll) (idle : s.busyAnswer = false)
    (failed : s.xres ≠ .ok) :
    readPhase finish s = .next (finish ((s.polled false).undefineRx s.len.toNat)) := by
  simp only [readPhase, ph, pollThen_idle idle]
  exact congrArg Host.Outcome.next (if_neg failed)

theorem finishRdid_ok {s : State} (received : s.xres = .ok) :
    finishRdid s = { s with ident := s.rxbuf[0] }.ret .ok := by
  simp [finishRdid, returnXres, received, xferStatus]

theorem finishRdid_failed {s : State} (failed : s.xres ≠ .ok) : finishRdid s = s.undefineIdent.ret .transfer := by
  simp [finishRdid, returnXres, failed, xferStatus_error failed]

theorem finishRdsmp_ok {s : State} (received : s.xres = .ok) : finishRdsmp s = s.latchSample.ret .ok := by
  simp [finishRdsmp, returnXres, received, xferStatus]

theorem finishRdsmp_failed {s : State} (failed : s.xres ≠ .ok) : finishRdsmp s = s.undefineAxes.ret .transfer := by
  simp [finishRdsmp, returnXres, failed, xferStatus_error failed]

/-! ## The steps of SINIT (R141, R142) -/

theorem exec_sinit_inProgress {s : State} (op : s.opr = .sinit) : exec .sinit s = sinitPhase s := by
  rw [exec_sinit, whenFree_busy op nofun]

/-- The poll of a write that answers false is followed by the record of the write's answer. -/
theorem exec_sinit_wPoll_idle {s : State} (op : s.opr = .sinit) (ph : s.ph = .wPoll) (idle : s.busyAnswer = false) :
    exec .sinit s =
      .next { s.polled false with initErr := withBit s.initErr s.istep (s.xres != .ok), ph := .sDelay } := by
  rw [exec_sinit_inProgress op, sinitPhase, ph]
  exact congrArg Host.Outcome.next (pollThen_idle idle _)

/-- After the settle delay SINIT goes on or returns. -/
theorem exec_sinit_sDelay {s : State} (op : s.opr = .sinit) (ph : s.ph = .sDelay) :
    exec .sinit s = .next (afterSettle (s.wait Config.settleMs)) := by
  rw [exec_sinit_inProgress op, sinitPhase, ph]

/-- Before the third write the next one follows. -/
theorem afterSettle_next {s : State} (more : s.istep ≠ 2) :
    afterSettle s = (s.latchSinit (s.istep + 1)).toPhase .wSend := if_neg more

/-- After the third write SINIT returns. -/
theorem afterSettle_last {s : State} (last : s.istep = 2) : afterSettle s = s.ret (sinitStatus s.initErr) := if_pos last

end Sys2Proof.Machine

open Sys2Proof Sys2Proof.Machine

/-! ## The statements -/

/-- Settles O33: the number of the axis by that of its high byte; its two bytes; and reading them back. -/
theorem decodeArithmetic : Obligations.DecodeArithmetic := by
  unfold Obligations.DecodeArithmetic
  refine ⟨fun low high => ?_, fun a => ⟨_, _, decodeAxis_bytes a⟩, fun _ _ _ _ => decodeAxis_inj⟩
  rw [toInt_decodeAxis, BitVec.toInt_eq_toNat_cond]
  split <;> split <;> omega

/-- Settles O37: SINIT is none of BINIT, RDID, RDSMP and DECODE and does not read, and these alone write the other
registers. -/
theorem sinitFrame : Obligations.SinitFrame := by
  unfold Obligations.SinitFrame
  intro s t next
  have h := exec_step next
  obtain ⟨lcs, lcp, due, issuer⟩ := h.keeps_controller
  obtain ⟨cmds, rst, inputs⟩ := h.keeps_inputs
  obtain ⟨ready, inits⟩ := h.keeps_bus nofun
  obtain ⟨len, rxbuf, recvs⟩ := h.keeps_received rfl
  obtain ⟨ax, ay, az⟩ := h.keeps_axes nofun nofun
  exact ⟨lcs, lcp, ready, len, fun _ _ => by rw [rxbuf], h.keeps_ident nofun, ax, ay, az, due, issuer, cmds, rst, inits,
    recvs, inputs⟩

/-- Settles O22: the poll of B_POLL is followed by the end of RDID, with the byte received or an undefined one; that of
A_POLL, after a failed send, by the undefined buffer and the same end. -/
theorem rdidReturns : Obligations.RdidReturns := by
  unfold Obligations.RdidReturns
  intro s op idle
  rw [exec_rdid_inProgress op]
  refine ⟨fun ph received => ?_, fun ph failed => ?_, fun ph failed => ?_⟩
  · rw [readPhase_bPoll_idle ph idle, finishRdid_ok (s := s.polled false) received]
    rfl
  · rw [readPhase_bPoll_idle ph idle, finishRdid_failed (s := s.polled false) failed]
    exact ⟨_, rfl⟩
  · rw [readPhase_aPoll_failed ph idle failed,
      finishRdid_failed (s := (s.polled false).undefineRx s.len.toNat) failed]
    exact ⟨_, _, fun j hj above => getElem_fillBytes_above _ _ hj above, rfl⟩

/-- Settles O23: the poll of B_POLL is followed by the end of RDSMP, with the axes decoded or undefined; that of A_POLL,
after a failed send, by the undefined buffer and the same end. -/
theorem rdsmpReturns : Obligations.RdsmpReturns := by
  unfold Obligations.RdsmpReturns
  intro s op idle
  rw [exec_rdsmp_inProgress op]
  refine ⟨fun ph received => ?_, fun ph failed => ?_, fun ph failed => ?_⟩
  · rw [readPhase_bPoll_idle ph idle, finishRdsmp_ok (s := s.polled false) received, State.latchSample_eq]
    rfl
  · rw [readPhase_bPoll_idle ph idle, finishRdsmp_failed (s := s.polled false) failed]
    exact ⟨_, _, _, rfl⟩
  · rw [readPhase_aPoll_failed ph idle failed,
      finishRdsmp_failed (s := (s.polled false).undefineRx s.len.toNat) failed]
    exact ⟨_, _, _, _, fun j hj above => getElem_fillBytes_above _ _ hj above, rfl⟩

/-- Settles O24: the bit of the write is set or cleared and no other. -/
theorem sinitRecordsWrite : Obligations.SinitRecordsWrite := by
  unfold Obligations.SinitRecordsWrite
  intro s op ph idle
  refine ⟨_, ?_, fun j other => ?_, exec_sinit_wPoll_idle op ph idle⟩
  · rw [getLsbD_withBit, if_pos rfl]
  · rw [getLsbD_withBit, if_neg other]

/-- Settles O25: the delay is followed by the next row of the table of R141, or by the return. -/
theorem sinitSettles : Obligations.SinitSettles := by
  unfold Obligations.SinitSettles
  intro s op ph
  rw [exec_sinit_sDelay op ph]
  refine ⟨fun first => ?_, fun second => ?_, fun last => ?_⟩
  · rw [afterSettle_next (by simp [first]), State.wait_istep, first]
    rfl
  · rw [afterSettle_next (by simp [second]), State.wait_istep, second]
    rfl
  · rw [afterSettle_last (s := s.wait Config.settleMs) last]
    rfl

/-- Settles O32: the decoding is all that DECODE does before its return, which between operations writes STATUS only. -/
theorem decodeWritesAxes : Obligations.DecodeWritesAxes := by
  unfold Obligations.DecodeWritesAxes
  intro s free idle
  rw [exec_decode_of_free free, State.ret_of_free (s := s.latchSample) free idle, State.latchSample_eq]

/-- Settles O34: the axes are decoded from six bytes on which the two states agree. -/
theorem decodeIsPure : Obligations.DecodeIsPure := by
  unfold Obligations.DecodeIsPure
  intro s t s' t' sfree tfree agree snext tnext
  rw [exec_decode_of_free sfree] at snext
  rw [exec_decode_of_free tfree] at tnext
  cases snext
  cases tnext
  simp [State.latchSample_eq, agree]

end

section
/-! Whole operations of the sensor driver (42_sensor_driver.md): RDID, RDSMP and SINIT from the command word to the
return (R141 to R146). -/

namespace Sys2Proof.Machine

/-! ## The bytes received -/

/-- A buffer that received one byte (R144, 10_state.md R29). -/
theorem rxbuf_of_received_one {v rx : Vector Byte 255} {b : Byte}
    (bytes : ∀ (j : Nat) (h : j < 255), rx[j] = [b].getD j v[j]) : rx = v.set 0 b := by
  refine Vector.ext fun j hj => ?_
  rw [bytes j hj]
  match j with
  | 0 => simp
  | j + 1 => simp

/-- A buffer that received the six bytes of the data block (R146, 30_encoding.md R78). -/
theorem rxbuf_of_received_six {v rx : Vector Byte 255} {b0 b1 b2 b3 b4 b5 : Byte}
    (bytes : ∀ (j : Nat) (h : j < 255), rx[j] = [b0, b1, b2, b3, b4, b5].getD j v[j]) :
    rx = (((((v.set 0 b0).set 1 b1).set 2 b2).set 3 b3).set 4 b4).set 5 b5 := by
  refine Vector.ext fun j hj => ?_
  rw [bytes j hj]
  match j with
  | 0 | 1 | 2 | 3 | 4 | 5 => simp
  | j + 6 => simp

/-! ## The operations begin (41_register_access.md R120) -/

/-- The state in which a read of the sensor driver has begun: operation `op` reads `len` bytes of the peer's register
`reg`, when `ws` are the words that are left (R144, R146). -/
def State.sensorReadBegun (s : State) (op : Op) (reg len : Byte) (ws : List Word) : State :=
  { s with cmds := ws, dev := Config.devAddr, reg := reg, len := len, opr := op, ph := .aSend }

/-- The state in which SINIT has begun (R141). -/
def State.sinitBegun (s : State) (ws : List Word) : State :=
  { s with
    cmds := ws, initErr := 0#3, istep := 0, dev := Config.devAddr, reg := Config.regPowerCtl, val := 0x00
    opr := .sinit, ph := .wSend }

section Begin

variable {s : State} {ws : List Word}

theorem step_rdid_begins (port : s.AtPort (encode .rdid) ws) (ready : s.busReady = true) :
    step s = .next (s.sensorReadBegun .rdid Config.regDevid 1 ws) := by
  obtain ⟨_, _, rdid, _⟩ := busOperationsBegin { s with cmds := ws } port.free ready
  exact step_begins port rdid rfl

theorem step_rdsmp_begins (port : s.AtPort (encode .rdsmp) ws) (ready : s.busReady = true) :
    step s = .next (s.sensorReadBegun .rdsmp Config.regDatax0 6 ws) := by
  obtain ⟨_, _, _, rdsmp, _⟩ := busOperationsBegin { s with cmds := ws } port.free ready
  exact step_begins port rdsmp rfl

theorem step_sinit_begins (port : s.AtPort (encode .sinit) ws) (ready : s.busReady = true) :
    step s = .next (s.sinitBegun ws) := by
  obtain ⟨_, _, _, _, sinit⟩ := busOperationsBegin { s with cmds := ws } port.free ready
  exact step_begins port sinit rfl

end Begin

/-! ## One write of SINIT with its polls and its delay (R141, R142, R143) -/

/-- The state of SINIT in S_DELAY, after a write that was answered `r`, with `k` polls that answered true and one that
answered false, when `rs`, `bs` and `ts` are the answers and the responses that are left. -/
def State.sinitWritten (s : State) (k : Nat) (r : XferResult) (rs : List XferResult) (bs ts : List Bool) : State :=
  { s with
    txbuf := #v[s.reg, s.val], xres := r, initErr := withBit s.initErr s.istep (r != .ok), ph := .sDelay
    trace := pollEvents k ++ .tSend s.dev [s.reg, s.val] false r :: s.trace
    sendAnswers := rs, busyAnswers := bs, transportResponds := ts, draws := s.draws + 2 * k + 4 }

/-- The state of SINIT in W_SEND of its next write, after a write as in `sinitWritten` and its delay. -/
def State.sinitNext (s : State) (k : Nat) (r : XferResult) (rs : List XferResult) (bs ts : List Bool) : State :=
  ((((s.sinitWritten k r rs bs ts).wait Config.settleMs).latchSinit (s.istep + 1)).toPhase .wSend).askedDelay

/-- The state after SINIT's return, which follows a write as in `sinitWritten` and its delay. -/
def State.sinitReturned (s : State) (k : Nat) (r : XferResult) (rs : List XferResult) (bs ts : List Bool) : State :=
  (((s.sinitWritten k r rs bs ts).wait Config.settleMs).ret
    (sinitStatus (withBit s.initErr s.istep (r != .ok)))).askedDelay

/-- What follows the delay has no event of its own. -/
@[simp] theorem afterSettle_trace (s : State) : (afterSettle s).trace = s.trace := by
  unfold afterSettle
  split <;> rfl

theorem State.inProgress_sinit {s : State} (op : s.opr = .sinit) : s.inProgress = some .sinit := by
  rw [State.inProgress, op]

/-- In S_DELAY SINIT takes a step when its delay is over (40_bus_transport.md R109). -/
theorem step_sDelay {s : State} {dl : List Bool} (low : s.rst = []) (op : s.opr = .sinit)
    (ph : s.ph = .sDelay) (completes : s.delayCompletes = true :: dl) :
    step s = .next (afterSettle (s.wait Config.settleMs)).askedDelay := by
  have run : runStep s = .next (afterSettle (s.wait Config.settleMs)) := by
    simpa only [runStep, State.inProgress_sinit op] using exec_sinit_sDelay op ph
  have event : (afterSettle (s.wait Config.settleMs)).trace = .delay Config.settleMs :: s.trace := afterSettle_trace _
  have elapsed : s.responds (.delay Config.settleMs) = true := by simp [State.responds, State.delayReady, completes]
  rw [step_of_low (by simp [State.rstSample, low]), State.sampled_of_low low, run]
  exact congrArg Host.Outcome.next (awaitResponse_answered event elapsed)

/-- SINIT is about to send the frame of its write number `i`, and the reset input stays low. -/
structure State.SendsWrite (s : State) (i : Fin 3) : Prop where
  low : s.rst = []
  opr : s.opr = .sinit
  ph : s.ph = .wSend
  istep : s.istep = i

section Write

variable {s : State} {i : Fin 3} {k : Nat} {r : XferResult} {rs : List XferResult} {bs ts dl : List Bool}

/-- After the write and its delay SINIT is about to send the next one. -/
theorem State.SendsWrite.next (sends : s.SendsWrite i) : (s.sinitNext k r rs bs ts).SendsWrite (i + 1) :=
  ⟨sends.low, sends.opr, rfl, congrArg (· + 1) sends.istep⟩

@[simp] theorem State.sinitNext_sendAnswers : (s.sinitNext k r rs bs ts).sendAnswers = rs := rfl
@[simp] theorem State.sinitNext_busyAnswers : (s.sinitNext k r rs bs ts).busyAnswers = bs := rfl
@[simp] theorem State.sinitNext_transportResponds : (s.sinitNext k r rs bs ts).transportResponds = ts := rfl

/-- In W_SEND SINIT sends its frame, polls and records the answer. -/
theorem runs_sinitWrite (sends : s.SendsWrite i) (responds : s.transportResponds = granted (k + 2) ++ ts)
    (answers : s.sendAnswers = r :: rs) (idle : s.busyAnswers = idleAfter k ++ bs) :
    Runs (k + 2) s (s.sinitWritten k r rs bs ts) := by
  obtain ⟨low, op, ph, _⟩ := sends
  have send := writeFrameSent .sinit s (.inr rfl) op ph
  refine runs_of_eq (runs_transfer send low (State.inProgress_sinit op) rfl rfl (State.inProgress_sinit op) rfl rfl
    responds idle (exec_sinit_wPoll_idle op rfl rfl) rfl) rfl ?_
  simp [State.sinitWritten, State.atLastPoll, State.afterBusyPolls, State.askedTransport, State.polled,
    State.sendAnswer, pollEvents, answers]
  omega

/-- A write of SINIT and its delay. -/
theorem runs_sinitWrite_settled (sends : s.SendsWrite i) (responds : s.transportResponds = granted (k + 2) ++ ts)
    (completes : s.delayCompletes = true :: dl) (answers : s.sendAnswers = r :: rs)
    (idle : s.busyAnswers = idleAfter k ++ bs) :
    Runs (k + 3) s (afterSettle ((s.sinitWritten k r rs bs ts).wait Config.settleMs)).askedDelay :=
  have settle := step_sDelay (s := s.sinitWritten k r rs bs ts) sends.low sends.opr rfl completes
  runs_add (n := k + 2) (runs_sinitWrite sends responds answers idle) (runs_one settle)

/-- Before the third write the next one follows. -/
theorem runs_sinitWrite_next (sends : s.SendsWrite i) (more : i ≠ 2)
    (responds : s.transportResponds = granted (k + 2) ++ ts) (completes : s.delayCompletes = true :: dl)
    (answers : s.sendAnswers = r :: rs) (idle : s.busyAnswers = idleAfter k ++ bs) :
    Runs (k + 3) s (s.sinitNext k r rs bs ts) :=
  runs_of_eq (runs_sinitWrite_settled sends responds completes answers idle) rfl
    (congrArg State.askedDelay (afterSettle_next (sends.istep ▸ more)))

/-- The third write is followed by the return. -/
theorem runs_sinitWrite_last (sends : s.SendsWrite 2) (responds : s.transportResponds = granted (k + 2) ++ ts)
    (completes : s.delayCompletes = true :: dl) (answers : s.sendAnswers = r :: rs)
    (idle : s.busyAnswers = idleAfter k ++ bs) : Runs (k + 3) s (s.sinitReturned k r rs bs ts) :=
  runs_of_eq (runs_sinitWrite_settled sends responds completes answers idle) rfl
    (congrArg State.askedDelay (afterSettle_last sends.istep))

end Write

/-! ## The record of the three writes (R142) -/

/-- INITERR after three writes that were answered `r0`, `r1`, `r2`. -/
def sinitErrors (r0 r1 r2 : XferResult) : BitVec 3 :=
  withBit (withBit (withBit 0#3 0 (r0 != .ok)) 1 (r1 != .ok)) 2 (r2 != .ok)

/-- Each bit is the answer of its write, which the other two leave as it is (R25). -/
theorem getLsbD_sinitErrors (r0 r1 r2 : XferResult) :
    (sinitErrors r0 r1 r2).getLsbD 0 = (r0 != .ok) ∧ (sinitErrors r0 r1 r2).getLsbD 1 = (r1 != .ok) ∧
      (sinitErrors r0 r1 r2).getLsbD 2 = (r2 != .ok) := by
  simp only [sinitErrors, getLsbD_withBit]
  exact ⟨rfl, rfl, rfl⟩

/-- Three bits that are each written once are all 0 when 0 was written to each. -/
theorem withBit_three_eq_zero_iff : ∀ a b c : Bool,
    withBit (withBit (withBit 0#3 0 a) 1 b) 2 c = 0#3 ↔ a = false ∧ b = false ∧ c = false := by decide

/-- SINIT returns OK when all three writes succeeded. -/
theorem sinitStatus_sinitErrors (r0 r1 r2 : XferResult) :
    sinitStatus (sinitErrors r0 r1 r2) = if r0 = .ok ∧ r1 = .ok ∧ r2 = .ok then .ok else .transfer := by
  simp [sinitStatus, sinitErrors, withBit_three_eq_zero_iff]

end Sys2Proof.Machine

open Sys2Proof Sys2Proof.Machine

/-! ## The statements -/

/-- Settles O29: the word is taken, both transfers succeed, and the poll that answers false returns the byte. -/
theorem rdidRuns : Obligations.RdidRuns := by
  unfold Obligations.RdidRuns
  intro s ws k m b rs ds bs ts port ready responds sends script idle
  have begins := step_rdid_begins port ready
  obtain ⟨rx, last, bytes, rfl, ends⟩ := runs_read (s := s.sensorReadBegun .rdid Config.regDevid 1 ws) (i := .rdid)
    port.low rfl rfl rfl responds sends script rfl idle
  have returns := ends _ ((rdidReturns _ rfl rfl).1 rfl rfl) rfl
  obtain rfl := rxbuf_of_received_one bytes
  refine runs_of_eq (runs_cons begins returns) rfl ?_
  simp [State.sensorReadBegun, State.addressed, State.received, State.atLastPoll, State.afterBusyPolls,
    State.askedTransport, State.polled, pollEvents, port.free]
  omega

/-- Settles O30: the word is taken, both transfers succeed, and the poll that answers false returns the six bytes
decoded. -/
theorem rdsmpRuns : Obligations.RdsmpRuns := by
  unfold Obligations.RdsmpRuns
  intro s ws k m b0 b1 b2 b3 b4 b5 rs ds bs ts port ready responds sends script idle
  have begins := step_rdsmp_begins port ready
  obtain ⟨rx, last, bytes, rfl, ends⟩ := runs_read (s := s.sensorReadBegun .rdsmp Config.regDatax0 6 ws) (i := .rdsmp)
    port.low rfl rfl rfl responds sends script rfl idle
  have returns := ends _ ((rdsmpReturns _ rfl rfl).1 rfl rfl) rfl
  obtain rfl := rxbuf_of_received_six bytes
  refine runs_of_eq (runs_cons begins returns) rfl ?_
  simp [State.sensorReadBegun, State.addressed, State.received, State.atLastPoll, State.afterBusyPolls,
    State.askedTransport, State.polled, pollEvents, port.free]
  omega

/-- Settles O31: the word is taken, each of the three writes is sent, polled, recorded and settled, and the third is
followed by the return. -/
theorem sinitRuns : Obligations.SinitRuns := by
  unfold Obligations.SinitRuns
  intro s ws k0 k1 k2 r0 r1 r2 rs bs ts dl port ready responds completes answers idle
  obtain ⟨bit0, bit1, bit2⟩ := getLsbD_sinitErrors r0 r1 r2
  refine ⟨sinitErrors r0 r1 r2, bit0, bit1, bit2, ?_⟩
  rw [show k0 + k1 + k2 + 6 = k0 + 2 + (k1 + 2 + (k2 + 2)) by omega, granted_add (k0 + 2),
    granted_add (k1 + 2)] at responds
  have begins := step_sinit_begins port ready
  have begun : (s.sinitBegun ws).SendsWrite 0 := ⟨port.low, rfl, rfl, rfl⟩
  have first := runs_sinitWrite_next begun nofun responds completes answers idle
  have second := runs_add first (runs_sinitWrite_next begun.next nofun State.sinitNext_transportResponds
    (congrArg List.tail completes) State.sinitNext_sendAnswers State.sinitNext_busyAnswers)
  have third := runs_add second (runs_sinitWrite_last begun.next.next State.sinitNext_transportResponds
    (congrArg (List.tail ∘ List.tail) completes) State.sinitNext_sendAnswers State.sinitNext_busyAnswers)
  refine runs_of_eq (runs_cons begins third) (by omega) ?_
  rw [← sinitStatus_sinitErrors]
  simp [State.sinitReturned, State.sinitNext, State.sinitWritten, State.sinitBegun, State.wait, State.log, State.ret,
    State.askedDelay, sinitErrors, sinitReg, sinitVal, Config.settleMs, Config.pwrMeasure, Config.fmtValue, granted,
    completes, port.free]
  omega

end

section
/-! The Loop Controller's turn (43_sampling_loop.md R171 to R176): what a step is at each step of each state. -/

namespace Sys2Proof.Machine

/-! ## A step at the Loop Controller's turn -/

/-- Each way in which `LcMove` lets the turn lead on is the one the turn takes. -/
theorem LcMove.lcStep_eq {s t : State} (h : LcMove s t) : lcStep s = .next t := by
  cases h with
  | start lcs lcp => simp [lcStep, lcs, lcUninitialized, lcp]
  | ready lcs lcp status | halt lcs lcp status => simp [lcStep, lcs, lcUninitialized, lcp, status]
  | binit lcs lcp h => simpa [lcStep, lcs, lcUninitialized, lcp, issueWord_binit] using h
  | rdid lcs lcp h => simpa [lcStep, lcs, lcBusReady, lcp, issueWord_rdid] using h
  | mismatch lcs lcp due => simp [lcStep, lcs, lcBusReady, lcp, reportIdentity, due]
  | identity lcs lcp due status ident | wrongIdentity lcs lcp due status ident =>
    simp [lcStep, lcs, lcBusReady, lcp, reportIdentity, due, status, ident]
  | identityFailed lcs lcp due status => simp [lcStep, lcs, lcBusReady, lcp, reportIdentity, due, status]
  | checked lcs lcp => simp [lcStep, lcs, lcBusReady, lcp]
  | sinit lcs lcp h => simpa [lcStep, lcs, lcIdentityChecked, lcp, issueWord_sinit] using h
  | writesOk lcs lcp errors | writesFailed lcs lcp errors => simp [lcStep, lcs, lcIdentityChecked, lcp, errors]
  | done lcs lcp | active lcs lcp => simp [lcStep, lcs, lcIdentityChecked, lcp]
  | sample lcs lcp => simp [lcStep, lcs, lcMeasurementActive, lcp]
  | rdsmp lcs lcp h => simpa [lcStep, lcs, lcSampling, lcp, issueWord_rdsmp] using h
  | sampleOk lcs lcp status | sampleFailed lcs lcp status => simp [lcStep, lcs, lcSampling, lcp, reportSample, status]
  | delay lcs lcp | again lcs lcp => simp [lcStep, lcs, lcSampling, lcp]
  | halted lcs => simp [lcStep, lcs]

section Turn

variable {s t : State} {i : Instr} {p : Fin 8}

/-- At the Loop Controller's turn a step is that turn, which waits for its response (R170, 40_bus_transport.md R109). -/
theorem step_turn (turn : s.LcTurn) (move : LcMove s.sampled t) : step s = onceAnswered s.sampled (.next t) := by
  have running : s.sampled.inProgress = none := s.sampled.inProgress_eq_none_iff.2 turn.free
  rw [step_of_low turn.low, ← move.lcStep_eq]
  simp [runStep, running, turn.lc]

/-- A turn with no event waits for nothing. -/
theorem step_turn_silent (turn : s.LcTurn) (move : LcMove s.sampled t) (silent : t.trace = s.trace) :
    step s = .next t :=
  (step_turn turn move).trans (onceAnswered_silent silent)

/-- The turn leads to step `p + 1` of the same state, once what it asks for in `t` is answered. -/
theorem step_turn_nextLcp (turn : s.LcTurn) (move : LcMove s.sampled t.nextLcp) (lcp : t.lcp = p) :
    step s = onceAnswered s.sampled (.next { t with lcp := p + 1 }) :=
  lcp ▸ step_turn turn move

/-- The turn issues an instruction, which is executed with LCP at the next step (log entry 8). -/
theorem step_turn_issues (turn : s.LcTurn) (lcp : s.sampled.lcp = p)
    (move : ∀ {t}, exec i s.sampled.nextLcp = .next t → LcMove s.sampled t) :
    step s = onceAnswered s.sampled (exec i { s.sampled with lcp := p + 1 }) := by
  subst lcp
  obtain ⟨t, begins⟩ := exec_next_of_free i (s := s.sampled.nextLcp) turn.free
  exact (step_turn turn (move begins)).trans (congrArg _ begins.symm)

/-- An instruction but BINIT has an event exactly while its operation is in progress (log entry 10). -/
theorem ExecStep.trace_eq_iff (h : ExecStep s i t) (other : i.op ≠ .binit) : t.trace = s.trace ↔ s.opr ≠ i.op := by
  have unequal (free : s.opr = .none) : s.opr ≠ i.op := fun op => i.op_ne_none (op.symm.trans free)
  cases h with
  | notTaken _ _ op => exact iff_of_true rfl op
  | initAgain | initOk | initFail => exact absurd rfl other
  | notReady _ free | decode free | wrreg _ _ _ free | rdregsZero _ _ free | rdregs _ _ _ free | rdid free | rdsmp free
  | sinit free => exact iff_of_true rfl (unequal free)
  | writeSent _ _ op | addressSent _ _ op | received _ _ op | receiveFailed _ _ op | busy _ op | addressAccepted _ _ op
  | wrregReturn _ _ _ op | writeRecorded op | settled op | sinitReturn op | rdregsShort _ _ _ op | rdidShort op
  | rdsmpShort op | rdregsReturn _ _ _ op | rdidReturn op | rdidFail op | rdsmpReturn op | rdsmpFail op =>
    exact iff_of_false (List.cons_ne_self _ _) (not_not_intro op)

/-- Admission has no event: the turn that issues a bus operation waits for nothing (log entry 10). -/
theorem step_turn_issues_silent (turn : s.LcTurn) (other : i.op ≠ .binit) (lcp : s.sampled.lcp = p)
    (move : ∀ {t}, exec i s.sampled.nextLcp = .next t → LcMove s.sampled t) :
    step s = exec i { s.sampled with lcp := p + 1 } := by
  rw [step_turn_issues turn lcp move]
  obtain ⟨t, begins⟩ := exec_next_of_free i (s := { s.sampled with lcp := p + 1 }) turn.free
  have idle : s.opr ≠ i.op := turn.free ▸ i.op_ne_none.symm
  rw [begins]
  exact onceAnswered_silent (((exec_step begins).trace_eq_iff other).2 idle)

end Turn

end Sys2Proof.Machine

open Sys2Proof Sys2Proof.Machine

/-! ## The statements -/

/-- Settles O45: the start message, BINIT, and the branch on STATUS are the four turns of Uninitialized. -/
theorem fromUninitialized : Obligations.FromUninitialized := by
  unfold Obligations.FromUninitialized
  intro s turn lcs
  exact ⟨fun lcp => (step_turn_nextLcp turn (.start lcs lcp) lcp :),
    fun lcp => step_turn_issues turn lcp (.binit lcs lcp),
    fun lcp status => step_turn_silent turn (.ready lcs lcp status) rfl,
    fun lcp status => step_turn turn (.halt lcs lcp status)⟩

/-- Settles O46: the turns of BusReady; the admission of RDID and the last turn have no event. -/
theorem fromBusReady : Obligations.FromBusReady := by
  unfold Obligations.FromBusReady
  intro s turn lcs
  exact ⟨fun lcp => step_turn_issues_silent (i := .rdid) turn nofun lcp (.rdid lcs lcp),
    fun lcp due status ident => (step_turn_nextLcp turn (.identity lcs lcp due status ident) lcp :),
    fun lcp due status ident => step_turn turn (.wrongIdentity lcs lcp due status ident),
    fun lcp due => (step_turn_nextLcp turn (.mismatch lcs lcp due) lcp :),
    fun lcp due status => (step_turn_nextLcp turn (.identityFailed lcs lcp due status) lcp :),
    fun lcp => step_turn_silent turn (.checked lcs lcp) rfl⟩

/-- Settles O47: the turns of IdentityChecked; the admission of SINIT, a step 2 with no failed write and the last turn
have no event. -/
theorem fromIdentityChecked : Obligations.FromIdentityChecked := by
  unfold Obligations.FromIdentityChecked
  intro s turn lcs
  exact ⟨fun lcp => step_turn_issues_silent (i := .sinit) turn nofun lcp (.sinit lcs lcp),
    fun lcp errors => (step_turn_nextLcp turn (.writesFailed lcs lcp errors) lcp :),
    fun lcp clear => (step_turn_nextLcp turn (.writesOk lcs lcp clear) lcp).trans (onceAnswered_silent rfl),
    fun lcp => (step_turn_nextLcp turn (.done lcs lcp) lcp :),
    fun lcp => step_turn_silent turn (.active lcs lcp) rfl⟩

/-- Settles O48: the one turn of MeasurementActive has no event. -/
theorem fromMeasurementActive : Obligations.FromMeasurementActive := by
  unfold Obligations.FromMeasurementActive
  exact fun s turn lcs lcp => step_turn_silent turn (.sample lcs lcp) rfl

/-- Settles O49: the turns of Sampling, of which the last leads back to the first. -/
theorem samplingCycle : Obligations.SamplingCycle := by
  unfold Obligations.SamplingCycle
  intro s turn lcs
  exact ⟨fun lcp => step_turn_issues_silent (i := .rdsmp) turn nofun lcp (.rdsmp lcs lcp),
    fun lcp status => (step_turn_nextLcp turn (.sampleOk lcs lcp status) lcp :),
    fun lcp status => (step_turn_nextLcp turn (.sampleFailed lcs lcp status) lcp :),
    fun lcp => (step_turn_nextLcp turn (.delay lcs lcp) lcp :),
    fun lcp => step_turn_silent turn (.again lcs lcp) rfl⟩

end

section
/-! The assembled block (43_sampling_loop.md R170, R178, R180): the operation in progress, BUS_READY and STATUS fit the
Loop Controller's state, and Halted is its only final state. -/

namespace Sys2Proof.Machine

/-! ## What a step keeps -/

/-- With the reset input high a step is a reset (70_reset_and_hazards.md R230). -/
theorem step_of_high {s : State} (high : s.rstSample = true) : step s = .next s.sampled.resetBlock := by
  simp [step, high]

/-- A step keeps what a reset, the block's next step and an asking keep. -/
theorem step_keeps {P : State → Prop} {s t : State} (next : step s = .next t) (sampled : P s.sampled)
    (reset : P s.sampled.resetBlock) (run : ∀ u, runStep s.sampled = .next u → P u)
    (asked : ∀ u e, P u → P (u.asked e)) : P t := by
  cases rst : s.rstSample
  · obtain ⟨u, runs, rfl⟩ := step_inv_of_low rst next
    exact awaitResponse_keeps sampled (run u runs) asked
  · cases (step_of_high rst).symm.trans next
    exact reset

/-- Using up the reset sample leaves the Loop Controller where the invariant has it. -/
theorem State.Inv.placeInv_sampled {s : State} (inv : s.Inv) : s.sampled.PlaceInv := (s.sampled.inv_iff.1 inv.sampled).2

/-! ## The states of the Loop Controller that have the bus -/

/-- The states from BusReady to Sampling: the bus is ready whatever the step (10_state.md R22). -/
def LcState.hasBus : LcState → Bool
  | .uninitialized => false
  | .busReady => true
  | .identityChecked => true
  | .measurementActive => true
  | .sampling => true
  | .halted => false

theorem State.lcReady_of_hasBus {s : State} (bus : s.lcs.hasBus = true) : s.lcReady = true := by
  cases lcs : s.lcs <;> rw [lcs] at bus
  case uninitialized | halted => cases bus
  all_goals simp [State.lcReady, lcs]

theorem LcState.allows_of_hasBus {l : LcState} (bus : l.hasBus = true) (c : Status) :
    l.allows c = true ↔ c = .ok ∨ c = .transfer := by
  cases l with
  | uninitialized | halted => cases bus
  | busReady | identityChecked | measurementActive | sampling => simp [LcState.allows]

/-- The operation that step 1 of a state leaves in progress (R171 to R175). -/
def LcState.Issues (l : LcState) (op : Op) : Prop :=
  (op = .rdid ∧ l = .busReady) ∨ (op = .sinit ∧ l = .identityChecked) ∨ (op = .rdsmp ∧ l = .sampling)

theorem LcState.Issues.hasBus {l : LcState} {op : Op} (issues : l.Issues op) : l.hasBus = true := by
  rcases issues with ⟨_, rfl⟩ | ⟨_, rfl⟩ | ⟨_, rfl⟩ <;> rfl

/-- The one operation the Loop Controller issues that needs no bus is not among them. -/
theorem LcState.Issues.ne_binit {l : LcState} {op : Op} (issues : l.Issues op) : op ≠ .binit := by
  rcases issues with ⟨rfl, _⟩ | ⟨rfl, _⟩ | ⟨rfl, _⟩ <;> exact nofun

/-- None of the states allows the codes of a refusal (60_exceptions.md R203). -/
theorem LcState.allows_refusals (l : LcState) : l.allows .notReady = false ∧ l.allows .illegal = false := by
  cases l <;> decide

/-! ## The invariant -/

/-- What the invariant speaks of. -/
def State.control (s : State) : Issuer × Op × LcState × Fin 8 × Bool × Bool × Status :=
  (s.issuer, s.opr, s.lcs, s.lcp, s.mismatchDue, s.busReady, s.status)

theorem State.LcInv.kept {s t : State} (inv : s.LcInv) (same : t.control = s.control) : t.LcInv := by
  simp only [State.control, Prod.mk.injEq] at same
  obtain ⟨issuer, opr, lcs, lcp, due, ready, status⟩ := same
  refine ⟨issuer ▸ inv.lc, ?_, ?_, ?_⟩
  · rw [opr, lcs, lcp, due]; exact inv.op
  · rw [ready, inv.ready]; simp [State.lcReady, lcs, lcp, status]
  · rw [lcs, status]; exact inv.status

/-- The operation in progress is one that the state issues. -/
theorem State.LcInv.inProgress {s : State} {i : Instr} (inv : s.LcInv) (running : s.inProgress = some i) :
    s.opr = i.op ∧ s.lcp = 1 ∧ s.mismatchDue = false ∧ s.lcs.Issues i.op := by
  have op := State.op_of_inProgress running
  obtain ⟨lcp, due, issues⟩ := inv.op (op ▸ i.op_ne_none)
  exact ⟨op, lcp, due, op ▸ issues⟩

/-- Between operations the invariant is about BUS_READY and STATUS. -/
theorem State.LcInv.of_free {s : State} (lc : s.issuer = .loopController) (free : s.opr = .none)
    (ready : s.busReady = s.lcReady) (status : s.lcs.allows s.status = true) : s.LcInv :=
  ⟨lc, absurd free, ready, status⟩

/-- Between two states that have the bus, a turn that leaves the bus and STATUS alone keeps the invariant. -/
theorem State.LcInv.moved {s t : State} (inv : s.LcInv) (free : t.opr = .none) (bus : s.lcs.hasBus = true)
    (bus' : t.lcs.hasBus = true) (lc : t.issuer = s.issuer) (ready : t.busReady = s.busReady)
    (status : t.status = s.status) : t.LcInv := by
  refine .of_free (lc.trans inv.lc) free ?_ ?_
  · rw [ready, inv.ready, State.lcReady_of_hasBus bus, State.lcReady_of_hasBus bus']
  · rw [status, LcState.allows_of_hasBus bus']
    exact (LcState.allows_of_hasBus bus _).1 inv.status

/-! ## The operation in progress -/

/-- An instruction that is taken is in progress afterwards or has returned (10_state.md R23). -/
theorem ExecStep.opr_of_taken {i : Instr} {s t : State} (h : ExecStep s i t) (taken : s.opr = .none ∨ s.opr = i.op) :
    t.opr = .none ∨ t.opr = i.op := by
  cases h with
  | wrreg | rdregs | rdid | rdsmp | sinit => exact .inr rfl
  | initOk | initFail | decode | rdregsZero | wrregReturn | sinitReturn | rdregsShort | rdidShort | rdsmpShort
  | rdregsReturn | rdidReturn | rdidFail | rdsmpReturn | rdsmpFail => exact .inl rfl
  | notTaken | notReady | initAgain | writeSent | addressSent | received | receiveFailed | busy | writeRecorded | settled
  | addressAccepted => exact taken

theorem xferStatus_cases (x : XferResult) : xferStatus x = .ok ∨ xferStatus x = .transfer := by
  cases x with
  | ok => exact .inl rfl
  | transferError => exact .inr rfl

theorem sinitStatus_cases (errors : BitVec 3) : sinitStatus errors = .ok ∨ sinitStatus errors = .transfer := by
  unfold sinitStatus
  split
  · exact .inl rfl
  · exact .inr rfl

/-- With the bus ready an instruction but BINIT returns OK or `E_TRANSFER` (60_exceptions.md R200, R203). -/
theorem ExecStep.status_of_ready {i : Instr} {s t : State} (h : ExecStep s i t) (ready : s.busReady = true)
    (other : i.op ≠ .binit) : t.status = s.status ∨ t.status = .ok ∨ t.status = .transfer := by
  cases h with
  | notReady _ _ unready => cases ready.symm.trans unready
  | initAgain | initOk | initFail => exact absurd rfl other
  | notTaken | wrreg | rdregs | rdid | rdsmp | sinit | writeSent | addressSent | received | receiveFailed | busy
  | writeRecorded | settled | addressAccepted => exact .inl rfl
  | wrregReturn | rdregsReturn => exact .inr (xferStatus_cases _)
  | sinitReturn => exact .inr (sinitStatus_cases _)
  | decode | rdregsZero | rdidReturn | rdsmpReturn => exact .inr (.inl rfl)
  | rdregsShort | rdidShort | rdsmpShort | rdidFail | rdsmpFail => exact .inr (.inr rfl)

/-- A step of the operation that the Loop Controller's state issues keeps the invariant. -/
theorem ExecStep.keeps_lcInv {i : Instr} {s t : State} (h : ExecStep s i t) (inv : s.LcInv) (lcp : s.lcp = 1)
    (due : s.mismatchDue = false) (issues : s.lcs.Issues i.op) (taken : s.opr = .none ∨ s.opr = i.op) : t.LcInv := by
  obtain ⟨lcs', lcp', due', issuer'⟩ := h.keeps_controller
  have bus : t.lcs.hasBus = true := lcs' ▸ issues.hasBus
  have ready : s.busReady = true := inv.ready.trans (State.lcReady_of_hasBus issues.hasBus)
  have ready' : t.busReady = true := (h.keeps_bus issues.ne_binit).1.trans ready
  constructor
  · exact issuer'.trans inv.lc
  · intro running
    rw [lcs', lcp', due', (h.opr_of_taken taken).resolve_left running]
    exact ⟨lcp, due, issues⟩
  · exact ready'.trans (State.lcReady_of_hasBus bus).symm
  · rw [LcState.allows_of_hasBus bus]
    rcases h.status_of_ready ready issues.ne_binit with kept | returned
    · rw [kept]; exact (LcState.allows_of_hasBus issues.hasBus _).1 inv.status
    · exact returned

/-! ## The Loop Controller's turn -/

/-- BINIT, issued at step 1 of Uninitialized, where the bus is not ready: BUS_READY is 1 exactly when it returned OK
(R171). -/
theorem exec_binit_lcInv {s t : State} (h : exec .binit s = .next t) (lc : s.issuer = .loopController)
    (free : s.opr = .none) (unready : s.busReady = false) (lcs : s.lcs = .uninitialized) (lcp : s.lcp = 2) :
    t.LcInv := by
  rw [exec_binit, whenFree_free free, if_neg (by simp [unready])] at h
  cases h
  by_cases answer : s.initAnswer = .ok
  · rw [initBus_ok answer]
    exact .of_free lc rfl (by simp [State.lcReady, lcs, lcp]) (by simp [LcState.allows, lcs])
  · rw [initBus_failed answer, initStatus_failed answer]
    refine .of_free lc rfl ?_ ?_
    · split <;> simp [State.lcReady, lcs, lcp, unready]
    · split <;> simp [LcState.allows, lcs]

/-- A turn that issues a bus operation keeps the invariant. -/
theorem State.LcInv.issued {s t : State} {i : Instr} (inv : s.LcInv) (h : exec i s.nextLcp = .next t) (lcp : s.lcp = 0)
    (due : s.mismatchDue = false) (free : s.opr = .none) (issues : s.lcs.Issues i.op) : t.LcInv :=
  have next : s.nextLcp.LcInv := inv.moved free issues.hasBus issues.hasBus rfl rfl rfl
  (exec_step h).keeps_lcInv next (by simp [lcp]) due issues (.inl free)

theorem LcMove.keeps_lcInv {s t : State} (h : LcMove s t) (inv : s.LcInv) (place : s.PlaceInv) (free : s.opr = .none) :
    t.LcInv := by
  have ready := inv.ready
  have status := inv.status
  cases h with
  | start lcs lcp =>
    refine .of_free inv.lc free ?_ status
    simpa [State.lcReady, lcs, lcp] using ready
  | binit lcs lcp h =>
    have unready : s.busReady = false := by simpa [State.lcReady, lcs, lcp] using ready
    exact exec_binit_lcInv h inv.lc free unready lcs (by simp [lcp])
  | ready lcs lcp ok =>
    refine .of_free inv.lc free ?_ ?_
    · simpa [State.lcReady, lcs, lcp, ok] using ready
    · simp [LcState.allows, ok]
  | halt lcs lcp failed =>
    have notOk : (s.status == .ok) = false := by simpa using failed
    refine .of_free inv.lc free ?_ ?_
    · simpa [State.lcReady, lcs, lcp, notOk] using ready
    · simpa [LcState.allows, lcs, failed] using status
  | rdid lcs lcp h =>
    exact inv.issued h lcp (place.notDue (by simp [lcp])) free (.inl ⟨rfl, lcs⟩)
  | sinit lcs lcp h =>
    exact inv.issued h lcp (place.notDue (by simp [lcp])) free (.inr (.inl ⟨rfl, lcs⟩))
  | rdsmp lcs lcp h =>
    exact inv.issued h lcp (place.notDue (by simp [lcp])) free (.inr (.inr ⟨rfl, lcs⟩))
  | mismatch lcs | identity lcs | wrongIdentity lcs | identityFailed lcs | writesOk lcs | writesFailed lcs
  | done lcs | sampleOk lcs | sampleFailed lcs | delay lcs | again lcs =>
    have bus : s.lcs.hasBus = true := by rw [lcs]; rfl
    exact inv.moved free bus bus rfl rfl rfl
  | checked lcs | active lcs | sample lcs => exact inv.moved free (by rw [lcs]; rfl) rfl rfl rfl rfl
  | halted => exact inv

/-- The next step of the assembled block keeps the invariant. -/
theorem runStep_keeps_lcInv {s t : State} (h : runStep s = .next t) (inv : s.LcInv) (place : s.PlaceInv) :
    t.LcInv := by
  rcases runStep_inv h with ⟨i, running, h⟩ | ⟨free, _, h⟩ | ⟨_, port, _⟩
  · obtain ⟨op, lcp, due, issues⟩ := inv.inProgress running
    exact h.keeps_lcInv inv lcp due issues (.inr op)
  · exact h.keeps_lcInv inv place free
  · cases inv.lc.symm.trans port

/-! ## Halted is final (R178) -/

/-- Every turn of the Loop Controller but that of Halted moves it: LCS, LCP or the warning that is due changes. -/
theorem LcMove.moves {s t : State} (h : LcMove s t) (running : s.lcs ≠ .halted) :
    (t.lcs, t.lcp, t.mismatchDue) ≠ (s.lcs, s.lcp, s.mismatchDue) := by
  have advances : ∀ p : Fin 8, p + 1 ≠ p := by decide
  cases h with
  | binit _ _ h | rdid _ _ h | sinit _ _ h | rdsmp _ _ h =>
    obtain ⟨_, lcp, _⟩ := (exec_step h).keeps_controller
    simp [lcp, advances]
  | start | mismatch | identity | identityFailed | writesOk | writesFailed | done | sampleOk | sampleFailed | delay =>
    simp [advances]
  | wrongIdentity _ _ due => simp [due]
  | ready lcs | halt lcs | checked lcs | active lcs | sample lcs => simp [lcs]
  | again _ lcp => simp [lcp]
  | halted lcs => exact absurd lcs running

/-- The assembled block has no next step that leaves it as it is, but in Halted. -/
theorem lcs_halted_of_runStep_eq {s : State} (h : runStep s = .next s) (inv : s.LcInv) : s.lcs = .halted := by
  rcases runStep_inv h with ⟨i, running, h⟩ | ⟨_, _, h⟩ | ⟨_, port, _⟩
  · obtain ⟨op, _, _, issues⟩ := inv.inProgress running
    exact absurd op ((h.trace_eq_iff issues.ne_binit).1 rfl)
  · by_contra running
    exact h.moves running rfl
  · cases inv.lc.symm.trans port

/-- A step that waits for a response uses up an asking, and one that is answered has its event (log entry 4): only a
step with no event answers the old state. -/
theorem eq_of_awaitResponse_eq {s t : State} (h : awaitResponse s t = s) : t = s := by
  rcases awaitResponse_cases s t with ⟨_, taken⟩ | ⟨e, event, ⟨_, taken⟩ | ⟨_, stuck⟩⟩
  · exact taken.symm.trans h
  · have silent : t.trace = s.trace := by rw [← h, taken, State.asked_trace]
    rw [newEvent_none silent] at event
    cases event
  · have draws : s.draws + 1 = s.draws := by
      conv_rhs => rw [← h, stuck, State.asked_draws]
    omega

end Sys2Proof.Machine

open Sys2Proof Sys2Proof.Machine

/-! ## The statements -/

/-- Settles O53: a reset leaves the bus not ready and no operation in progress; with no reset the next step of the
assembled block keeps the invariant, and so does waiting for the response. No state allows the two codes. -/
theorem stepKeepsLcInv : Obligations.StepKeepsLcInv := by
  unfold Obligations.StepKeepsLcInv
  refine ⟨fun s t inv lc next => ?_, fun s lc => ?_⟩
  · have sampled : s.sampled.LcInv := lc.kept rfl
    refine step_keeps next sampled ?_ ?_ ?_
    · exact .of_free lc.lc rfl rfl rfl
    · exact fun _ run => runStep_keeps_lcInv run sampled inv.placeInv_sampled
    · exact fun _ _ h => h.kept (by simp [State.control])
  · obtain ⟨notReady, illegal⟩ := s.lcs.allows_refusals
    have status := lc.status
    constructor
    · intro code; simp [code, notReady] at status
    · intro code; simp [code, illegal] at status

/-- Settles O50: the turn of Halted is silent, the invariant says that the bus is not ready there, and every other next
step of the assembled block moves the Loop Controller or has an event. -/
theorem haltedIsFinal : Obligations.HaltedIsFinal := by
  unfold Obligations.HaltedIsFinal
  refine ⟨fun s turn lcs => step_turn_silent turn (.halted lcs) rfl, fun s lc lcs => ⟨?_, ?_⟩,
    fun s _ lc low next => ?_⟩
  · rw [lc.ready, State.lcReady, lcs]
  · by_contra running
    obtain ⟨_, _, issued⟩ := lc.op running
    simp [lcs] at issued
  · obtain ⟨u, run, unchanged⟩ := step_inv_of_low low next
    rw [eq_of_awaitResponse_eq unchanged.symm] at run
    exact lcs_halted_of_runStep_eq (s := s.sampled) run (lc.kept rfl)

end

section
/-! The order of the reports (43_sampling_loop.md R179). -/

namespace Sys2Proof.Machine

/-! ## What a step adds to the reports -/

/-- An event that is no report leaves the reports where they have led. -/
theorem reportStage_cons_of_ne_emit {e : Event} (other : ∀ r, e ≠ .emit r) (tr : List Event) :
    reportStage (e :: tr) = reportStage tr := by
  cases e with
  | emit r => exact absurd rfl (other r)
  | tInit | tSend | tRecv | tBusy | delay => rfl

/-- No step of an instruction is a report (40_bus_transport.md R108). -/
theorem ExecStep.keeps_reportStage {i : Instr} {s t : State} (h : ExecStep s i t) :
    reportStage t.trace = reportStage s.trace := by
  rcases h.atMostOneEvent with silent | ⟨e, event⟩
  · rw [silent]
  · rw [event, reportStage_cons_of_ne_emit]
    rintro r rfl
    exact h.opRequest.trace_ne_emit r event

/-- `ReportsAdvance s t`: what is reported from `s` to `t` leads, in the order of R179, from where the Loop Controller
stands in `s` to where it stands in `t`. -/
inductive ReportsAdvance (s t : State) : Prop where
  /-- Nothing is reported, and the Loop Controller stands where the same has been reported. -/
  | quiet : reportStage t.trace = reportStage s.trace → t.reported = s.reported → ReportsAdvance s t
  /-- The report that is next in the order. -/
  | report (r : Report) : t.trace = .emit r :: s.trace → s.reported.next r = some t.reported → ReportsAdvance s t

/-- The Loop Controller goes on standing where the reports of the trace have led. -/
theorem ReportsAdvance.reportStage_eq {s t : State} (h : ReportsAdvance s t)
    (ordered : reportStage s.trace = some s.reported) : reportStage t.trace = some t.reported := by
  cases h with
  | quiet stage reported => rw [stage, reported, ordered]
  | report r trace next => rw [trace, reportStage, ordered, Option.bind_some, next]

/-- At LCP other than 2, LCS, LCP and the warning that is due say what has been reported; at 2, in IdentityChecked,
INITERR bears on it. -/
theorem State.reported_congr {s t : State} (lcs : t.lcs = s.lcs) (lcp : t.lcp = s.lcp)
    (due : t.mismatchDue = s.mismatchDue) (early : s.lcp ≠ 2) : t.reported = s.reported := by
  simp [State.reported, lcs, lcp, due, early]

/-- An operation the Loop Controller has issued reports nothing until it returns. -/
theorem ExecStep.reportsAdvance {i : Instr} {s t : State} (h : ExecStep s i t) (early : s.lcp ≠ 2) :
    ReportsAdvance s t := by
  obtain ⟨lcs, lcp, due, _⟩ := h.keeps_controller
  exact .quiet h.keeps_reportStage (State.reported_congr lcs lcp due early)

/-- Each turn of the Loop Controller reports what is next in the order, or nothing (R171 to R176). -/
theorem LcMove.reportsAdvance {s t : State} (h : LcMove s t) (place : s.PlaceInv) : ReportsAdvance s t := by
  cases h with
  | binit lcs lcp h | rdid lcs lcp h | sinit lcs lcp h | rdsmp lcs lcp h =>
    obtain ⟨lcs', lcp', due', _⟩ := (exec_step h).keeps_controller
    have due := place.notDue (by simp [lcs, lcp])
    refine .quiet (exec_step h).keeps_reportStage ?_
    simp [State.reported, lcs', lcp', due', due, lcs, lcp]
  | ready lcs lcp | checked lcs lcp | active lcs lcp | sample lcs lcp | again lcs lcp =>
    have due := place.notDue (by simp [lcs, lcp])
    exact .quiet rfl (by simp [State.reported, lcs, lcp, due])
  | writesOk lcs lcp clear => exact .quiet rfl (by simp [State.reported, lcs, lcp, clear])
  | delay lcs lcp => exact .quiet rfl (by simp [State.reported, lcs])
  | halted => exact .quiet rfl rfl
  | start lcs lcp | halt lcs lcp | sampleOk lcs lcp | sampleFailed lcs lcp =>
    exact .report _ rfl (by simp [State.reported, lcs, lcp, ReportStage.next])
  | mismatch lcs lcp due | identityFailed lcs lcp due =>
    exact .report _ rfl (by simp [State.reported, lcs, lcp, due, ReportStage.next])
  | identity lcs lcp due _ ident | wrongIdentity lcs lcp due _ ident =>
    rw [Config.idExpected] at ident
    exact .report _ rfl (by simp [State.reported, lcs, lcp, due, ident, ReportStage.next])
  | writesFailed lcs lcp errors => exact .report _ rfl (by simp [State.reported, lcs, lcp, errors, ReportStage.next])
  | done lcs lcp =>
    refine .report _ rfl ?_
    by_cases errors : s.initErr = 0#3 <;> simp [State.reported, lcs, lcp, errors, ReportStage.next]

/-- The next step of the assembled block reports what is next in the order or nothing. -/
theorem runStep_reportsAdvance {s t : State} (h : runStep s = .next t) (lc : s.LcInv) (place : s.PlaceInv) :
    ReportsAdvance s t := by
  rcases runStep_inv h with ⟨i, running, h⟩ | ⟨_, _, h⟩ | ⟨_, port, _⟩
  · obtain ⟨_, lcp, _⟩ := lc.inProgress running
    exact h.reportsAdvance (by simp [lcp])
  · exact h.reportsAdvance place
  · cases lc.lc.symm.trans port

end Sys2Proof.Machine

open Sys2Proof Sys2Proof.Machine

/-! ## The statements -/

/-- Settles O59: a reset empties the trace with nothing reported; with no reset the next step of the assembled block
reports what is next in the order or nothing, and waiting for the response reports nothing. -/
theorem reportsInOrder : Obligations.ReportsInOrder := by
  unfold Obligations.ReportsInOrder
  intro s t inv lc ordered next
  have sampled : s.sampled.LcInv := lc.kept rfl
  refine step_keeps (P := fun t => reportStage t.trace = some t.reported) next ordered rfl ?_ ?_
  · exact fun _ run => (runStep_reportsAdvance run sampled inv.placeInv_sampled).reportStage_eq ordered
  · intro u e h
    simpa [State.reported] using h

end

section
/-! A bus that never reports idle (60_exceptions.md R208). -/

open Sys2Proof Sys2Proof.Machine

/-! ## The statements -/

/-- Settles O44: as long as the polls answer true the operation stays where it stands, by induction on their number
(`runs_busyPolls`). -/
theorem wedgedBusHangs : Obligations.WedgedBusHangs := by
  unfold Obligations.WedgedBusHangs
  exact fun _ _ _ _ low phase polls responds busy => runs_busyPolls low phase polls responds busy

end

section
/-! The discipline of the bus (70_reset_and_hazards.md): outside the steps of instructions the register access stands
still; the bus is idle between two transfers (R234), a read is paired on the held bus (R237, R240), and every event has
one of the spec's forms (R238, R245). -/

namespace Sys2Proof.Machine

/-! ## Beside the register access -/

/-- Where the register access stands: its phase, the result it has, and its peer (10_state.md R23, R27, R32). -/
def State.access (s : State) : Phase × XferResult × DevAddr := (s.ph, s.xres, s.dev)

/-- `BesideAccess s t`: from `s` to `t` the register access stands still; between accesses the Loop Controller may
report or wait for the next sample (43_sampling_loop.md R170, R175). -/
inductive BesideAccess (s t : State) : Prop where
  | silent : t.access = s.access → t.trace = s.trace → BesideAccess s t
  | report (r : Report) : s.ph = .idle → t.access = s.access → t.trace = .emit r :: s.trace → BesideAccess s t
  | wait : s.ph = .idle → t.access = s.access → t.trace = .delay Config.sampleMs :: s.trace → BesideAccess s t

/-- What a turn of the Loop Controller or of the command port does from `s` to `t`: it stays beside the access, or it
issues an instruction between accesses. -/
def TurnsBeside (s t : State) : Prop :=
  BesideAccess s t ∨ ∃ i u, ExecStep u i t ∧ BesideAccess s u ∧ u.opr = .none ∧ u.ph = .idle

theorem LcMove.turnsBeside {s t : State} (h : LcMove s t) (free : s.opr = .none) (idle : s.ph = .idle) :
    TurnsBeside s t := by
  cases h with
  | binit _ _ h | rdid _ _ h | sinit _ _ h | rdsmp _ _ h =>
    exact .inr ⟨_, _, exec_step h, .silent rfl rfl, free, idle⟩
  | ready | checked | writesOk | active | sample | again | halted => exact .inl (.silent rfl rfl)
  | start | halt | mismatch | identity | wrongIdentity | identityFailed | writesFailed | done | sampleOk
  | sampleFailed => exact .inl (.report _ idle rfl rfl)
  | delay => exact .inl (.wait idle rfl rfl)

theorem PortMove.turnsBeside {s t : State} (h : PortMove s t) (free : s.opr = .none) (idle : s.ph = .idle) :
    TurnsBeside s t := by
  cases h with
  | empty | illegal => exact .inl (.silent rfl rfl)
  | taken _ _ _ _ _ h => exact .inr ⟨_, _, exec_step h, .silent rfl rfl, free, idle⟩

section Keeps

variable {P : State → Prop} {s t : State}
  (exec : ∀ {i u v}, ExecStep u i v → u.OpInv → P u → P v) (beside : ∀ {u v}, BesideAccess u v → P u → P v)

include exec beside

theorem TurnsBeside.keeps (h : TurnsBeside s t) (holds : P s) : P t := by
  rcases h with aside | ⟨i, u, issued, aside, free, idle⟩
  · exact beside aside holds
  · exact exec issued (.of_free free idle) (beside aside holds)

/-- The block's next step keeps what the instructions keep and what holds beside the access. -/
theorem runStep_keeps_of_exec (h : runStep s = .next t) (inv : s.OpInv) (holds : P s) : P t := by
  rcases runStep_inv h with ⟨_, _, h⟩ | ⟨free, _, h⟩ | ⟨free, _, h⟩
  · exact exec h inv holds
  · exact (h.turnsBeside free (inv.ph_idle free)).keeps exec beside holds
  · exact (h.turnsBeside free (inv.ph_idle free)).keeps exec beside holds

/-- What holds after reset, what the instructions keep and what holds beside the access, every step keeps. -/
theorem step_keeps_of_exec (next : step s = .next t) (inv : s.Inv) (holds : P s) (reset : P s.sampled.resetBlock) :
    P t := by
  have sampled : P s.sampled := beside (u := s) (.silent rfl rfl) holds
  refine step_keeps next sampled reset (fun u run => ?_) fun u e h => ?_
  · exact runStep_keeps_of_exec exec beside run (s.sampled.inv_iff.1 inv.sampled).1 sampled
  · exact beside (.silent (by simp [State.access]) (by simp)) h

end Keeps

/-! ## The bus is idle between two transfers (R234) -/

theorem pollPending_cons (e : Event) (tr : List Event) :
    pollPending (e :: tr) = (e.isTransfer || (e != .tBusy false && pollPending tr)) := by
  cases e with
  | tSend | tRecv => rfl
  | tBusy b => cases b <;> simp [pollPending, Event.isTransfer]
  | tInit | delay | emit => simp [pollPending, Event.isTransfer]

theorem State.BusInv.kept {s t : State} (bus : s.BusInv) (trace : t.trace = s.trace)
    (polls : t.ph.polls = s.ph.polls) : t.BusInv :=
  ⟨by rw [trace]; exact bus.trace, by rw [trace, polls]; exact bus.pending⟩

/-- An event keeps the invariant when a transfer finds no poll due, and the next phase polls exactly after a transfer or
while the poll goes on being due. -/
theorem State.BusInv.logged {s t : State} {e : Event} (bus : s.BusInv) (trace : t.trace = e :: s.trace)
    (notDue : e.isTransfer = true → s.ph.polls = false)
    (polls : t.ph.polls = (e.isTransfer || (e != .tBusy false && s.ph.polls))) : t.BusInv := by
  constructor
  · rw [trace, serialized, bus.pending, bus.trace]
    cases transfer : e.isTransfer
    · rfl
    · rw [notDue transfer]; rfl
  · rw [trace, pollPending_cons, bus.pending, polls]

/-- An instruction transfers in a phase that does not poll and goes on to one that does, which it leaves with a poll
that answers false (41_register_access.md R121, R122, 40_bus_transport.md R105). -/
theorem ExecStep.keeps_busInv {i : Instr} {s t : State} (h : ExecStep s i t) (inv : s.OpInv) (bus : s.BusInv) :
    t.BusInv := by
  have quiet (free : s.opr = .none) : s.ph.polls = false := by rw [inv.ph_idle free]; rfl
  cases h with
  | notTaken => exact bus
  | notReady | initAgain => exact bus.kept rfl rfl
  | decode free | wrreg _ _ _ free | rdregsZero _ _ free | rdregs _ _ _ free | rdid free | rdsmp free | sinit free =>
    exact bus.kept rfl (quiet free).symm
  | initOk free | initFail free => exact bus.logged rfl nofun (by rw [quiet free]; rfl)
  | writeSent _ _ _ ph | addressSent _ _ _ ph | received _ _ _ ph | receiveFailed _ _ _ ph =>
    exact bus.logged rfl (fun _ => by rw [ph]; rfl) rfl
  | busy _ _ _ polls busy =>
    exact bus.logged (e := .tBusy s.busyAnswer) rfl nofun (by simp [busy, Event.isTransfer])
  | settled _ ph | sinitReturn _ ph => exact bus.logged rfl nofun (by rw [ph]; rfl)
  | wrregReturn _ _ _ _ _ idle | writeRecorded _ _ idle | addressAccepted _ _ _ _ idle | rdregsShort _ _ _ _ _ idle
  | rdidShort _ _ idle | rdsmpShort _ _ idle | rdregsReturn _ _ _ _ _ idle | rdidReturn _ _ idle | rdidFail _ _ idle
  | rdsmpReturn _ _ idle | rdsmpFail _ _ idle =>
    exact bus.logged (e := .tBusy s.busyAnswer) rfl nofun (by rw [idle]; rfl)

theorem BesideAccess.keeps_busInv {s t : State} (h : BesideAccess s t) (bus : s.BusInv) : t.BusInv := by
  have polls (same : t.access = s.access) : t.ph.polls = s.ph.polls := congrArg (fun a => a.1.polls) same
  cases h with
  | silent same trace => exact bus.kept trace (polls same)
  | report r _ same trace | wait _ same trace => exact bus.logged trace nofun (polls same)

/-! ## A read is paired on the held bus (R237, R240) -/

theorem lastTransfer_cons_other {e : Event} (other : e.isTransfer = false) (tr : List Event) :
    lastTransfer (e :: tr) = lastTransfer tr := by
  rw [lastTransfer, other, if_neg nofun]

/-- The event may be issued while the bus is held by `held`: the receive from that peer ends the hold, a poll leaves it,
and nothing else is issued. -/
def Event.fitsHold (held : Option DevAddr) : Event → Bool
  | .tRecv dev _ _ _ => held == some dev
  | .tBusy _ => true
  | .tInit _ _ => held == none
  | .tSend _ _ _ _ => held == none
  | .delay _ => held == none
  | .emit _ => held == none

theorem readsPaired_cons (e : Event) (tr : List Event) :
    readsPaired (e :: tr) = (e.fitsHold (heldBy tr) && readsPaired tr) := by
  cases e <;> rfl

/-- The bus is held only after an accepted address frame, up to the receive (10_state.md R35 (b)). -/
theorem State.heldPeer_eq_none {s : State} (refused : s.ph = .aPoll → s.xres ≠ .ok) (early : s.ph ≠ .bRecv) :
    s.heldPeer = none := by
  unfold State.heldPeer
  split
  next ph ok => exact absurd ok (refused ph)
  next ph => exact absurd ph early
  next => rfl

/-- The address frame holds the bus exactly when it is accepted (R122, R124). -/
theorem State.heldBy_addressFrame (s : State) :
    heldBy (.tSend s.dev [s.reg] true s.sendAnswer :: s.trace) = (sendAddressFrame s).heldPeer := by
  cases answer : s.sendAnswer <;>
    simp [heldBy, lastTransfer, Event.isTransfer, State.heldPeer, sendAddressFrame, answer]

theorem State.HoldInv.kept {s t : State} (hold : s.HoldInv) (trace : t.trace = s.trace)
    (held : t.heldPeer = s.heldPeer) : t.HoldInv :=
  ⟨by rw [trace]; exact hold.trace, by rw [trace, held]; exact hold.held⟩

theorem State.HoldInv.logged {s t : State} {e : Event} (hold : s.HoldInv) (trace : t.trace = e :: s.trace)
    (fits : e.fitsHold s.heldPeer = true) (held : heldBy (e :: s.trace) = t.heldPeer) : t.HoldInv := by
  constructor
  · rw [trace, readsPaired_cons, hold.held, fits, hold.trace]; rfl
  · rw [trace, held]

/-- An event that is no transfer leaves the bus as it is held. -/
theorem State.HoldInv.aside {s t : State} {e : Event} (hold : s.HoldInv) (trace : t.trace = e :: s.trace)
    (other : e.isTransfer = false) (fits : e.fitsHold s.heldPeer = true) (held : t.heldPeer = s.heldPeer) :
    t.HoldInv :=
  hold.logged trace fits (by rw [heldBy, lastTransfer_cons_other other, held]; exact hold.held)

/-- A read holds the bus from its accepted address frame to its receive and only polls between the two; the other phases
find the bus not held (R122, R124). -/
theorem ExecStep.keeps_holdInv {i : Instr} {s t : State} (h : ExecStep s i t) (inv : s.OpInv) (hold : s.HoldInv) :
    t.HoldInv := by
  have free_none (free : s.opr = .none) : s.heldPeer = none :=
    State.heldPeer_eq_none (by simp [inv.ph_idle free]) (by simp [inv.ph_idle free])
  have other_none (ph : s.ph ≠ .aPoll) (ph' : s.ph ≠ .bRecv) : s.heldPeer = none :=
    State.heldPeer_eq_none (fun h => absurd h ph) ph'
  cases h with
  | notTaken => exact hold
  | notReady | initAgain => exact hold.kept rfl rfl
  | decode free | wrreg _ _ _ free | rdregsZero _ _ free | rdregs _ _ _ free | rdid free | rdsmp free | sinit free =>
    exact hold.kept rfl (free_none free).symm
  | initOk free | initFail free =>
    exact hold.aside rfl rfl (by rw [free_none free]; rfl) (free_none free).symm
  | writeSent _ _ _ ph =>
    exact hold.logged rfl (by rw [other_none (by simp [ph]) (by simp [ph])]; rfl) rfl
  | addressSent _ _ _ ph =>
    exact hold.logged rfl (by rw [other_none (by simp [ph]) (by simp [ph])]; rfl) s.heldBy_addressFrame
  | received _ _ _ ph | receiveFailed _ _ _ ph =>
    exact hold.logged rfl (by simp [Event.fitsHold, State.heldPeer, ph]) rfl
  | busy => exact hold.aside (e := .tBusy s.busyAnswer) rfl rfl rfl rfl
  | addressAccepted _ _ _ ph _ accepted =>
    exact hold.aside (e := .tBusy s.busyAnswer) rfl rfl rfl (by simp [State.heldPeer, ph, accepted])
  | settled _ ph | sinitReturn _ ph =>
    have unheld := other_none (by simp [ph]) (by simp [ph])
    exact hold.aside rfl rfl (by rw [unheld]; rfl) unheld.symm
  | wrregReturn _ _ _ _ ph | writeRecorded _ ph | rdregsReturn _ _ _ _ ph | rdidReturn _ ph | rdidFail _ ph
  | rdsmpReturn _ ph | rdsmpFail _ ph =>
    exact hold.aside (e := .tBusy s.busyAnswer) rfl rfl rfl (other_none (by simp [ph]) (by simp [ph])).symm
  | rdregsShort _ _ _ _ ph _ failed | rdidShort _ ph _ failed | rdsmpShort _ ph _ failed =>
    exact hold.aside (e := .tBusy s.busyAnswer) rfl rfl rfl
      (State.heldPeer_eq_none (fun _ => failed) (by simp [ph])).symm

theorem BesideAccess.keeps_holdInv {s t : State} (h : BesideAccess s t) (hold : s.HoldInv) : t.HoldInv := by
  have held (same : t.access = s.access) : t.heldPeer = s.heldPeer := by
    simp only [State.access, Prod.mk.injEq] at same
    obtain ⟨ph, xres, dev⟩ := same
    simp only [State.heldPeer, ph, xres, dev]
  cases h with
  | silent same trace => exact hold.kept trace (held same)
  | report r idle same trace | wait idle same trace =>
    refine hold.aside trace rfl ?_ (held same)
    rw [State.heldPeer_eq_none (by simp [idle]) (by simp [idle])]
    rfl

/-! ## Every event has one of the spec's forms (R238, R245) -/

theorem all_wellFormed_of_cons {s t : State} {e : Event} (formed : s.trace.all Event.wellFormed = true)
    (trace : t.trace = e :: s.trace) (form : e.wellFormed = true) : t.trace.all Event.wellFormed = true := by
  rw [trace, List.all_cons, form, formed]; rfl

/-- The receive of a read delivers LEN bytes or none (R103), and LEN is not 0 (41_register_access.md R123). -/
theorem State.wellFormed_receive {s : State} (length : s.len ≠ 0) :
    Event.wellFormed (.tRecv s.dev s.len.toNat s.recvAnswer
      (if s.recvAnswer = .ok then s.recvData s.len.toNat else [])) = true := by
  have positive : s.len.toNat ≠ 0 := fun zero => length (BitVec.eq_of_toNat_eq zero)
  have bound := s.len.isLt
  have range : 1 ≤ s.len.toNat ∧ s.len.toNat ≤ 255 := by omega
  cases answer : s.recvAnswer <;> simp [Event.wellFormed, State.recvData, range]

/-- Each primitive an instruction calls has its event in one of the forms (00_scope.md R7). -/
theorem ExecStep.keeps_wellFormed {i : Instr} {s t : State} (h : ExecStep s i t) (inv : s.OpInv)
    (formed : s.trace.all Event.wellFormed = true) : t.trace.all Event.wellFormed = true := by
  cases h with
  | notTaken | notReady | initAgain | decode | wrreg | rdregsZero | rdregs | rdid | rdsmp | sinit => exact formed
  | initOk | initFail | writeSent | addressSent | settled | sinitReturn => exact all_wellFormed_of_cons formed rfl rfl
  | received _ reads op | receiveFailed _ reads op =>
    exact all_wellFormed_of_cons formed rfl (State.wellFormed_receive (inv.length (op ▸ reads)))
  | busy | wrregReturn | writeRecorded | addressAccepted | rdregsShort | rdidShort | rdsmpShort | rdregsReturn
  | rdidReturn | rdidFail | rdsmpReturn | rdsmpFail =>
    exact all_wellFormed_of_cons (e := .tBusy s.busyAnswer) formed rfl rfl

theorem BesideAccess.keeps_wellFormed {s t : State} (h : BesideAccess s t)
    (formed : s.trace.all Event.wellFormed = true) : t.trace.all Event.wellFormed = true := by
  cases h with
  | silent _ trace => rw [trace]; exact formed
  | report r _ _ trace | wait _ _ trace => exact all_wellFormed_of_cons formed trace rfl

end Sys2Proof.Machine

open Sys2Proof Sys2Proof.Machine

/-! ## The statements -/

/-- Settles O54: transfers are made in the phases that do not poll, and the poll after them is due in those that do. -/
theorem busIdleBetweenTransfers : Obligations.BusIdleBetweenTransfers := by
  unfold Obligations.BusIdleBetweenTransfers
  exact fun _ _ inv bus next =>
    step_keeps_of_exec ExecStep.keeps_busInv BesideAccess.keeps_busInv next inv bus ⟨rfl, rfl⟩

/-- Settles O55: the bus is held in the phases between the two transfers of a read, where the block only polls. -/
theorem readsPairedOnHeldBus : Obligations.ReadsPairedOnHeldBus := by
  unfold Obligations.ReadsPairedOnHeldBus
  exact fun _ _ inv hold next =>
    step_keeps_of_exec ExecStep.keeps_holdInv BesideAccess.keeps_holdInv next inv hold ⟨rfl, rfl⟩

/-- Settles O60: a read in progress has a length, and every other event has its form from the primitive that makes
it. -/
theorem eventsWellFormed : Obligations.EventsWellFormed := by
  unfold Obligations.EventsWellFormed
  exact fun _ _ inv formed next =>
    step_keeps_of_exec (P := fun s => s.trace.all Event.wellFormed = true) ExecStep.keeps_wellFormed
      BesideAccess.keeps_wellFormed next inv formed rfl

end

section
/-! What is reported is what was received (42_sensor_driver.md R149, 43_sampling_loop.md R172, 70_reset_and_hazards.md
R239). -/

namespace Sys2Proof.Machine

/-! ## The newest data and the reports of a trace -/

/-- An event that is no transfer leaves the bytes received last. -/
theorem lastData_cons_other {e : Event} (other : e.isTransfer = false) (tr : List Event) :
    lastData (e :: tr) = lastData tr := by
  rw [lastData, lastTransfer_cons_other other]
  rfl

theorem reportsFaithful_cons_of_ne_emit {e : Event} (other : ∀ r, e ≠ .emit r) (tr : List Event) :
    reportsFaithful (e :: tr) = reportsFaithful tr := by
  cases e with
  | emit r => exact absurd rfl (other r)
  | tInit | tSend | tRecv | tBusy | delay => rfl

/-- No step of an instruction is a report (40_bus_transport.md R108). -/
theorem ExecStep.keeps_reportsFaithful {i : Instr} {s t : State} (h : ExecStep s i t) :
    reportsFaithful t.trace = reportsFaithful s.trace := by
  rcases h.atMostOneEvent with silent | ⟨e, event⟩
  · rw [silent]
  · rw [event, reportsFaithful_cons_of_ne_emit]
    rintro r rfl
    exact h.opRequest.trace_ne_emit r event

/-! ## The invariant -/

/-- Away from the end of a receive, and where no successful read is about to be reported, the invariant is about the
trace only. -/
theorem State.ReportInv.of_nothingDue {s : State} (trace : reportsFaithful s.trace = true)
    (received : s.ph = .bPoll → s.xres ≠ .ok)
    (due : s.opr = .none → s.lcp = 1 → s.status = .ok → s.lcs ≠ .busReady ∧ s.lcs ≠ .sampling) :
    s.ReportInv where
  trace := trace
  buffer ph ok := absurd ok (received ph)
  ident free lcs lcp ok := absurd lcs (due free lcp ok).1
  axes free lcs lcp ok := absurd lcs (due free lcp ok).2

/-- A receive that succeeds leaves its bytes in the buffer (41_register_access.md R122). -/
theorem lastData_received (s : State) (rest : List Event) :
    lastData (.tRecv s.dev s.len.toNat .ok (s.recvData s.len.toNat) :: rest) =
      some ((fillBytes s.rxbuf s.len.toNat s.recvByte).toList.take s.len.toNat) := by
  have bound := s.len.isLt
  rw [take_fillBytes _ _ (by omega)]
  rfl

/-- A step of the operation that the Loop Controller's state issues keeps the invariant: it is taken from between
operations or from its own progress, so that no report is due before it, and only the read that the state reports
returns OK. -/
theorem ExecStep.keeps_reportInv {i : Instr} {s t : State} (h : ExecStep s i t) (inv : s.OpInv)
    (issues : s.lcs.Issues i.op) (taken : s.opr = .none ∨ s.opr = i.op) (trace : reportsFaithful s.trace = true)
    (buffer : s.ph = .bPoll → s.xres = .ok → lastData s.trace = some (s.rxbuf.toList.take s.len.toNat)) :
    t.ReportInv := by
  have trace' : reportsFaithful t.trace = true := h.keeps_reportsFaithful.trans trace
  have running (op : s.opr = i.op) : s.opr ≠ .none := op ▸ i.op_ne_none
  have polled : lastData (.tBusy s.busyAnswer :: s.trace) = lastData s.trace := lastData_cons_other rfl _
  cases h with
  | notTaken _ busy other => exact absurd taken (by simp [busy, other])
  | notReady _ free => exact .of_nothingDue trace' (by simp [inv.ph_idle free]) nofun
  | initAgain | initOk | initFail | decode | wrreg | rdregsZero | rdregs | wrregReturn | rdregsShort | rdregsReturn =>
    simp [LcState.Issues, Instr.op] at issues
  | writeSent _ _ op | addressSent _ _ op | addressAccepted _ _ op =>
    exact .of_nothingDue trace' nofun fun free => absurd free (running op)
  | writeRecorded op | settled op => exact .of_nothingDue trace' nofun fun free => absurd free (by simp [op])
  | receiveFailed _ _ op _ failed => exact .of_nothingDue trace' (fun _ => failed) fun free => absurd free (running op)
  | rdid | rdsmp | sinit | rdidShort | rdsmpShort | rdidFail | rdsmpFail => exact .of_nothingDue trace' nofun nofun
  | sinitReturn =>
    have lcs : s.lcs = .identityChecked := by simpa [LcState.Issues, Instr.op] using issues
    exact .of_nothingDue trace' nofun (by simp [lcs])
  | received _ _ op _ ok =>
    refine ⟨trace', fun _ _ => ?_, fun free => absurd free (running op), fun free => absurd free (running op)⟩
    simpa [ok] using lastData_received s s.trace
  | busy _ op =>
    exact ⟨trace', fun ph ok => polled.trans (buffer ph ok), fun free => absurd free (running op),
      fun free => absurd free (running op)⟩
  | rdidReturn op ph _ ok =>
    have lcs : s.lcs = .busReady := by simpa [LcState.Issues, Instr.op] using issues
    obtain ⟨_, _, len⟩ := inv.rdid op
    refine ⟨trace', nofun, fun _ _ _ _ => ?_, fun _ other => absurd (lcs.symm.trans other) nofun⟩
    calc lastData (.tBusy s.busyAnswer :: s.trace)
        = some (s.rxbuf.toList.take s.len.toNat) := polled.trans (buffer ph ok)
      _ = some [s.rxbuf[0]] := by rw [len, ← toList_take_one]; rfl
  | rdsmpReturn op ph _ ok =>
    have lcs : s.lcs = .sampling := by simpa [LcState.Issues, Instr.op] using issues
    obtain ⟨_, _, len⟩ := inv.rdsmp op
    refine ⟨trace', nofun, fun _ other => absurd (lcs.symm.trans other) nofun, fun _ _ _ _ => ?_⟩
    have data : lastData (.tBusy s.busyAnswer :: s.trace) = some (s.rxbuf.toList.take 6) := by
      rw [polled, buffer ph ok, len]; rfl
    show (lastData (.tBusy s.busyAnswer :: s.trace)).bind decodeBytes = _
    rw [data, toList_take_six]
    rfl

/-- BINIT is issued before anything is read. -/
theorem exec_binit_reportInv {s t : State} (h : exec .binit s = .next t) (lcs : s.lcs = .uninitialized)
    (idle : s.ph = .idle) (trace : reportsFaithful s.trace = true) : t.ReportInv := by
  have trace' : reportsFaithful t.trace = true := (exec_step h).keeps_reportsFaithful.trans trace
  obtain ⟨_, _, _, _, _, _, stays, rfl⟩ := exec_binit_writes h
  exact .of_nothingDue trace' (by simp [stays idle]) (by simp [lcs])

/-- The Loop Controller reports IDENT and the axes at the step after a read that returned OK, and nothing is due after
that step (43_sampling_loop.md R172, R175). -/
theorem LcMove.keeps_reportInv {s t : State} (h : LcMove s t) (free : s.opr = .none) (idle : s.ph = .idle)
    (inv : s.ReportInv) : t.ReportInv := by
  have polling : s.ph = .bPoll → s.xres ≠ .ok := by simp [idle]
  have issued {i : Instr} (h : exec i s.nextLcp = .next t) (issues : s.lcs.Issues i.op) : t.ReportInv :=
    (exec_step h).keeps_reportInv (.of_free free idle) issues (.inl free) inv.trace inv.buffer
  cases h with
  | binit lcs _ h => exact exec_binit_reportInv h lcs idle inv.trace
  | rdid lcs _ h => exact issued h (.inl ⟨rfl, lcs⟩)
  | sinit lcs _ h => exact issued h (.inr (.inl ⟨rfl, lcs⟩))
  | rdsmp lcs _ h => exact issued h (.inr (.inr ⟨rfl, lcs⟩))
  | halted => exact inv
  | start lcs lcp | ready lcs lcp | halt lcs lcp | mismatch lcs lcp | identityFailed lcs lcp | checked lcs lcp
  | writesOk lcs lcp | writesFailed lcs lcp | done lcs lcp | active lcs lcp | sample lcs lcp | sampleFailed lcs lcp
  | delay lcs lcp | again lcs lcp =>
    exact .of_nothingDue inv.trace polling (by simp [lcs, lcp])
  | identity lcs lcp _ ok =>
    refine .of_nothingDue ?_ polling (by simp [lcp])
    simp [reportsFaithful, inv.ident free lcs lcp ok, inv.trace]
  | sampleOk lcs lcp ok =>
    refine .of_nothingDue ?_ polling (by simp [lcp])
    simp [reportsFaithful, inv.axes free lcs lcp ok, inv.trace]
  | wrongIdentity lcs lcp _ ok =>
    have data := inv.ident free lcs lcp ok
    refine ⟨?_, fun ph ok => absurd ok (polling ph), fun _ _ _ _ => ?_,
      fun _ other => absurd (lcs.symm.trans other) nofun⟩
    · simp [reportsFaithful, data, inv.trace]
    · exact (lastData_cons_other rfl _).trans data

/-- The next step of the assembled block keeps the invariant. -/
theorem runStep_keeps_reportInv {s t : State} (h : runStep s = .next t) (inv : s.OpInv) (lc : s.LcInv)
    (report : s.ReportInv) : t.ReportInv := by
  rcases runStep_inv h with ⟨i, running, h⟩ | ⟨free, _, h⟩ | ⟨_, port, _⟩
  · obtain ⟨op, _, _, issues⟩ := lc.inProgress running
    exact h.keeps_reportInv inv issues (.inr op) report.trace report.buffer
  · exact h.keeps_reportInv free (inv.ph_idle free) report
  · cases lc.lc.symm.trans port

end Sys2Proof.Machine

open Sys2Proof Sys2Proof.Machine

/-! ## The statements -/

/-- Settles O58: the bytes of a receive stay in RXBUF until its read returns, and then in IDENT or the axes until they
are reported, while no other transfer is made. -/
theorem reportsFaithfulToBytes : Obligations.ReportsFaithfulToBytes := by
  unfold Obligations.ReportsFaithfulToBytes
  intro s t inv lc report next
  have op : s.sampled.OpInv := (s.sampled.inv_iff.1 inv.sampled).1
  have sampled : s.sampled.ReportInv := ⟨report.trace, report.buffer, report.ident, report.axes⟩
  refine step_keeps next sampled ?_ ?_ ?_
  · exact .of_nothingDue rfl nofun (by simp [State.resetBlock, State.resetAt])
  · exact fun _ run => runStep_keeps_reportInv run op (lc.kept rfl) sampled
  · intro u e h
    cases e <;> exact ⟨h.trace, h.buffer, h.ident, h.axes⟩

end

section
/-! Reset (70_reset_and_hazards.md R230) and the refusal of bus operations before initialisation (R236). -/

open Sys2Proof Sys2Proof.Machine

/-! ## The statements -/

/-- Settles O8: with the reset input high the step is `resetBlock`, which writes each of these registers. -/
theorem stepUnderReset : Obligations.StepUnderReset := by
  unfold Obligations.StepUnderReset
  intro s high
  refine ⟨s.sampled.resetBlock, step_of_high high, ?_⟩
  simp [State.resetBlock, State.resetAt]

/-- Settles O10: every instruction but BINIT and DECODE is admitted to the bus before anything else. -/
theorem notReadyRefused : Obligations.NotReadyRefused := by
  unfold Obligations.NotReadyRefused
  intro i s notBinit notDecode free unready
  cases i with
  | binit => exact absurd rfl notBinit
  | decode => exact absurd rfl notDecode
  | wrreg | rdregs | rdid | sinit | rdsmp => exact whenFree_admitBus_unready free unready _ _ _

end
